-- ==== Sys2Proof/Word.lean ====
section
/-! DEFINITION. The word types of the block (00_scope.md R7, R10; 30_encoding.md R70). -/

namespace Sys2Proof

/-- A sieve byte (R7). -/
abbrev Byte := BitVec 8

/-- A 64-bit operand or result, unsigned (R7, R72). -/
abbrev Word64 := BitVec 64

/-- A 256-bit command word; bit 0 is the least significant (R70, R71). -/
abbrev CommandWord := BitVec 256

/-- A 128-bit response word; bit 0 is the least significant (R70, R75). -/
abbrev ResponseWord := BitVec 128

end Sys2Proof
end

