-- ==== Sys2Proof/Config.lean ====
section
/-! DEFINITION. The implementation parameters of 00_scope.md R6, and the free value of the model. -/

namespace Sys2Proof

/-- The parameters of R6. `PRIMES_LEN` is the length of `primes`, index 0 included. -/
structure Config where
  /-- `MAX_BYTES`: capacity of the sieve byte memory, in bytes. -/
  maxBytes : Nat
  /-- `MAX_WHEEL`: capacity of the wheel memory, in entries. -/
  maxWheel : Nat
  /-- `MAX_CNT`: capacity of the counter memory, in counters. -/
  maxCnt : Nat
  /-- `primes`: the external read-only prime table of 20_memory.md R57, entry `i` at list index `i`. -/
  primes : List Nat
deriving DecidableEq, Repr

/-- `PRIMES_LEN` of R6. -/
def Config.primesLen (c : Config) : Nat := c.primes.length

/-- The configuration of every vector of 95_test_vectors.md ("Conventions and test configuration"; R6, last column).
`primes[0]` is an ignored sentinel (R57); the model writes 0 there. DESIGN CHOICE as the configuration at reset
(log entries 3 and 17), unsafe. -/
def Config.testVectors : Config where
  maxBytes := 64
  maxWheel := 32
  maxCnt := 512
  primes := [0, 2, 3, 5, 7, 11, 13, 17, 19, 23, 29, 31, 37, 41, 43, 47, 53, 59, 61, 67, 71, 73, 79, 83, 89, 97]

/-- FREE VALUE. What `CNTN` holds after NEW, which R90 leaves unspecified; applied to the count of free values used
before. It has no value a proof could use (log entry 6). -/
opaque Config.freeCntn : Nat → Word64

end Sys2Proof
end

