-- ==== Sys2Proof/Machine/State.lean ====
section
/-! DEFINITION. The state of one block (10_state.md R20 to R36), the model's own fields beside it (log entries 1, 2, 3, 6),
the reasons a step can stop, and the state after reset (70_reset_and_hazards.md R190). -/

namespace Sys2Proof.Machine

/-- A memory of the block by index: the cells that hold a value, addresses strictly rising; an unlisted address holds no
value (log entry 5). -/
abbrev Store (α : Type) := List (Nat × α)

/-- The canonical form: addresses strictly rising. (An unlisted address reads as no value, which no entry equals.) -/
abbrev Store.wf {α : Type} (m : Store α) : Prop := m.Pairwise fun x y => x.1 < y.1

/-- The sieve byte memory (R27), as the host's cells. -/
abbrev Memory := List Host.Cell

/-- The canonical form of the sieve byte memory. -/
abbrev Memory.wf (m : Memory) : Prop := Store.wf m

/-- A wheel entry `(off, idx)` (R29). -/
structure WheelEntry where
  /-- `off`, PC's `multiple_offset_u32`: the byte offset of the next crossing. -/
  off : BitVec 32
  /-- `idx`, PC's `wheel_index_u8`: `8 * class + position`. -/
  idx : BitVec 8
deriving DecidableEq, Repr

/-- What the host does to the block (R14, R190): push a command word, or apply the reset input. -/
inductive HostInput where
  | command (w : CommandWord)
  | reset
deriving DecidableEq, Repr

/-- The causes of 60_exceptions.md R173, code 0 apart. -/
inductive Cause where
  /-- Code 1: the word matches no command. -/
  | illegal
  /-- Code 2: the command needs state that holds no value. -/
  | state
  /-- Code 3: an operand is not a multiple of 30 or 240. -/
  | align
  /-- Code 4: an index or size is outside what exists. -/
  | range
  /-- Code 5: another precondition on an operand is broken. -/
  | operand
deriving DecidableEq, Repr

/-- Reasons the model stops. The block's own faults are no stop: they are next states (R172). -/
inductive Fault where
  /-- Raised by a meaning that would read a sieve byte, wheel entry or counter that holds no value. The spec's guards
  (R36, R191) keep every such read from happening, and no state that meets the invariant of Safety.lean raises it.
  Safe: the model stops, and says nothing about what a block would read (log entry 5). -/
  | noValue
deriving DecidableEq, Repr

/-- Reasons the model refuses. -/
inductive Refusal where
  /-- The instruction has no meaning in the model. No arm of `exec` answers it. Safe. -/
  | notModelled (mnemonic : String)
  /-- Raised by `step` when the configuration breaks a constraint of R6: 93_implementation_defined.md U7 says that such
  a configuration is refused. Safe (log entry 11). -/
  | badConfiguration
deriving DecidableEq, Repr

/-- The state tuple of R20, the command index of R22, and the model's own fields. -/
structure State where
  /-- `CREATED` (R23). -/
  created : Bool
  /-- `FAULT` (R23). -/
  fault : Bool
  /-- `CAUSE` (R23, R173). -/
  cause : BitVec 8
  /-- `SIEVE_VALID` (R23). -/
  sieveValid : Bool
  /-- `CNT_VALID` (R23). -/
  cntValid : Bool
  /-- `PRIMED` (R23). -/
  primed : Bool
  /-- `START` (R24). -/
  start : BitVec 64
  /-- `SIZE` (R25). -/
  size : BitVec 32
  /-- `WCAP` (R26). The number it stands for is `State.wheelCapacity` (log entry 8). -/
  wcap : BitVec 32
  /-- `WCNT` (R26). The number it stands for is `State.wheelCount` (log entry 8). -/
  wcnt : BitVec 32
  /-- `CNTN` (R31). -/
  cntn : BitVec 64
  /-- `bytes` (R27). -/
  bytes : Memory
  /-- `wheel` (R29). -/
  wheel : Store WheelEntry
  /-- `cnt` (R31). -/
  cnt : Store (BitVec 64)
  /-- `cidx`: how many command words were answered since reset (R22). -/
  cidx : Nat
  /-- The model's own: the response words given since reset, oldest first (R74; log entry 2). -/
  responses : List ResponseWord
  /-- The model's own: the configuration, an argument in the spec (R6, R15; log entry 3). -/
  cfg : Config
  /-- The model's own: what the host still sends, in order (R14, R15, R201; log entry 1). -/
  inbox : List HostInput
  /-- The model's own: how many free values were used (log entry 6). -/
  freeIndex : Nat
deriving DecidableEq, Repr

/-- The state after reset of a block with a given configuration (R36, R190): the flags and `CAUSE` 0, no memory cell
holding a value; the scalar registers, which R36 leaves unspecified, 0 (DESIGN CHOICE, log entry 4, unsafe). -/
def State.afterReset (cfg : Config) : State where
  created := false
  fault := false
  cause := 0
  sieveValid := false
  cntValid := false
  primed := false
  start := 0
  size := 0
  wcap := 0
  wcnt := 0
  cntn := 0
  bytes := []
  wheel := []
  cnt := []
  cidx := 0
  responses := []
  cfg := cfg
  inbox := []
  freeIndex := 0

/-- The machine right after reset, with the configuration of 95_test_vectors.md (DESIGN CHOICE, log entry 3). -/
def State.reset : State := State.afterReset Config.testVectors

end Sys2Proof.Machine
end

