-- ==== Sys2Proof/Machine/Flags.lean ====
section
/-! DEFINITION. Every write of a flag outside fault entry and reset (10_state.md R23; the "writes" column is complete). -/

namespace Sys2Proof.Machine

/-- The flags NEW writes (R90): `CREATED` set, the three validity flags cleared. -/
def State.flagsOfNew (s : State) : State :=
  { s with created := true, sieveValid := false, primed := false, cntValid := false }

/-- The flags PRESIEVE writes (R101 step 6). -/
def State.flagsOfPresieve (s : State) : State :=
  { s with sieveValid := true, primed := true, cntValid := false }

/-- CROSSOFF clears `CNT_VALID`, always (R131). -/
def State.invalidateCounters (s : State) : State := { s with cntValid := false }

/-- CNTFINIT sets `CNT_VALID` (R152). -/
def State.validateCounters (s : State) : State := { s with cntValid := true }

end Sys2Proof.Machine
end

