-- ==== Sys2Proof/Machine/Operands.lean ====
section
/-! DEFINITION. The arithmetic of operands and positions: the wheel residues (00_scope.md R8), bit positions and integer
offsets (R12, 40_sieve30_basic.md R97), the step tables and the state machine (41_sieve30_cross_off.md R122 to R126),
the wheel-init tables (R129), the index arithmetic of the counter tree (10_state.md R32). All on natural numbers: nothing
wraps (R9). -/

namespace Sys2Proof.Machine

/-- `W`, the residues mod 30 coprime to 30, ascending (R8). -/
def W : List Nat := [1, 7, 11, 13, 17, 19, 23, 29]

/-- `W[k]`, for `k` in 0..7. Every use has `k < 8`. -/
def residue (k : Nat) : Nat := W.getD k 0

/-- Is `r` one of the residues? (R8) -/
def inW (r : Nat) : Bool := W.contains r

/-- `cls(r)`, the index of `r` in `W` (R8). Outside `W` the spec leaves it undefined and no rule uses it; the value 0
there is the one R129 shows for the unused entries of `wheel_offsets` (log entry 14). -/
def cls (r : Nat) : Nat := if inW r then W.idxOf r else 0

/-- `off(pos)`, the integer offset of a bit position (R12). -/
def offOf (pos : Nat) : Nat := 30 * (pos / 8) + residue (pos % 8)

/-- `pos_of(n)`, the position of a represented integer offset (R12). -/
def posOf (n : Nat) : Nat := 8 * (n / 30) + cls (n % 30)

/-- `below(n)`, the number of represented offsets strictly below `n` (R97). -/
def below (n : Nat) : Nat := 8 * (n / 30) + W.countP (fun w => decide (w < n % 30))

/-- `DF[j]`, the cofactor gap (R122). -/
def DF (j : Nat) : Nat := if j < 7 then residue (j + 1) - residue j else 30 + residue 0 - residue 7

/-- `BITPOS[c][j]`, the bit crossed in class `c` at position `j` (R123). -/
def BITPOS (c j : Nat) : Nat := cls ((residue c * residue j) % 30)

/-- `DC[c][j]`, the carry of the step that leaves position `j` (R124). -/
def DC (c j : Nat) : Nat := (residue c * (residue j + DF j)) / 30 - (residue c * residue j) / 30

/-- The successor of one of the 64 states (R126). -/
def nextWheelState (x : Nat) : Nat := 8 * (x / 8) + (x % 8 + 1) % 8

/-- The least `f >= 0`, from a given one on, with `(q + f) % 30` in `W`, searched over `fuel` values. -/
def factorFrom (q : Nat) : Nat → Nat → Nat
  | 0, f => f
  | fuel + 1, f => if inW ((q + f) % 30) then f else factorFrom q fuel (f + 1)

/-- `wheel_init[q] = (factor, index)` (R129): no residue is further than 5 from the next one of `W`. -/
def wheelInit (q : Nat) : Nat × Nat :=
  let f := factorFrom q 6 0
  (f, cls ((q + f) % 30))

/-- `wheel_offsets[r]` (R129). -/
def wheelOffsets (r : Nat) : Nat := 8 * cls r

/-- `lo(j) = j & (j + 1)`: counter `j` is responsible for `lo(j) .. j` (R32). -/
def lo (j : Nat) : Nat := j &&& (j + 1)

/-- `j | (j + 1)`: the next counter responsible for the same positions (R154). -/
def upCounter (j : Nat) : Nat := j ||| (j + 1)

end Sys2Proof.Machine
end

