-- ==== Sys2Proof/Machine/Ops.lean ====
section
/-! DEFINITION. The named operations every meaning is built from: memory cells and bits, the word view, responses, taking
a fault, the order of checks, the counter tree, wheel-init and the crossing loop. -/

namespace Sys2Proof.Machine

/-! ### Cells -/

/-- The value a cell holds, if any. -/
def Store.read {α : Type} : Store α → Nat → Option α
  | [], _ => none
  | (k, v) :: rest, a => if k = a then some v else Store.read rest a

/-- A write of one cell, keeping addresses rising. -/
def Store.write {α : Type} : Store α → Nat → α → Store α
  | [], a, v => [(a, v)]
  | (k, w) :: rest, a, v =>
    if a < k then (a, v) :: (k, w) :: rest
    else if a = k then (a, v) :: rest
    else (k, w) :: Store.write rest a v

/-- Do cells `0 .. n-1` all hold a value? -/
def Store.covers {α : Type} (m : Store α) (n : Nat) : Bool :=
  (List.range n).all fun a => (Store.read m a).isSome

/-- The cells at `n` and above dropped: they hold no value afterwards. -/
def Store.truncate {α : Type} (m : Store α) (n : Nat) : Store α := m.filter fun x => decide (x.1 < n)

/-- Cells `0 .. n-1` written from a function, the others kept. -/
def Store.overwrite {α : Type} (m : Store α) (n : Nat) (f : Nat → α) : Store α :=
  (List.range n).map (fun a => (a, f a)) ++ m.filter fun x => decide (n ≤ x.1)

/-! ### The wheel registers (10_state.md R26) -/

/-- The number of entries a 32-bit wheel register stands for: 1 to 2^32. R26 keeps both registers at 4 or above, and R6 and
R90 let them be 2^32, so the pattern 0, which no other number uses, stands for 2^32 (DESIGN CHOICE, log entry 8). -/
def entryNumber (r : BitVec 32) : Nat := if r = 0 then 2 ^ 32 else r.toNat

/-- The number `WCAP` stands for: how many wheel entries NEW reserved (R26). -/
def State.wheelCapacity (s : State) : Nat := entryNumber s.wcap

/-- The number `WCNT` stands for: how many wheel entries are present (R26). -/
def State.wheelCount (s : State) : Nat := entryNumber s.wcnt

/-! ### Bits and bytes of the sieve (00_scope.md R11, R12; 10_state.md R27) -/

/-- `live(pos)`: bit `pos % 8` of `bytes[pos / 8]` is 1. Meanings look only at bytes that hold a value. -/
def live (m : Memory) (pos : Nat) : Bool :=
  match Store.read m (pos / 8) with
  | some b => b.getLsbD (pos % 8)
  | none => false

/-- A byte with bit `k` set to 0. -/
def clearBit (b : Byte) (k : Nat) : Byte := b &&& ~~~(BitVec.twoPow 8 k)

/-- `clear(pos)`: bit `pos % 8` of `bytes[pos / 8]` set to 0. -/
def clear (m : Memory) (pos : Nat) : Memory :=
  match Store.read m (pos / 8) with
  | some b => Store.write m (pos / 8) (clearBit b (pos % 8))
  | none => m

/-- The number of live positions in `from .. from + n - 1`. -/
def liveCount (m : Memory) (first n : Nat) : Nat := (List.range' first n).countP (live m)

/-- `MemRead(addr, n)` (20_memory.md R53): one byte, or eight aligned bytes as a little-endian number (R51); `none` where
R53's requirements fail or a byte holds no value. -/
def memRead (m : Memory) (size addr n : Nat) : Option Nat :=
  if addr + n ≤ size then
    if n = 1 then (Store.read m addr).map BitVec.toNat
    else if n = 8 ∧ addr % 8 = 0 then
      (List.range 8).foldr
        (fun t acc => do
          let b ← Store.read m (addr + t)
          let v ← acc
          return b.toNat + 256 * v)
        (some 0)
    else none
  else none

/-- `MemWrite(addr, n, v)` (R53): the inverse of `memRead`; `none` where R53's requirements fail. DESIGN CHOICE: a number that
does not fit `n` bytes, of which the spec says nothing, is written with its low `8 * n` bits (log entry 22). -/
def memWrite (m : Memory) (size addr n v : Nat) : Option Memory :=
  if addr + n ≤ size then
    if n = 1 then some (Store.write m addr (BitVec.ofNat 8 v))
    else if n = 8 ∧ addr % 8 = 0 then
      some ((List.range 8).foldl (fun acc t => Store.write acc (addr + t) (BitVec.ofNat 8 (v / 256 ^ t))) m)
    else none
  else none

/-! ### Responses (30_encoding.md R74, R75) and the command index (10_state.md R22) -/

/-- `ST + CAUSE * 2^8 + R * 2^64` (R75). -/
def responseWord (st : BitVec 8) (cause : BitVec 8) (r : Word64) : ResponseWord := r ++ (0 : BitVec 48) ++ cause ++ st

/-- The response of a completed command: `ST = 0, CAUSE = 0, R = v`. -/
def okWord (v : Word64) : ResponseWord := responseWord 0 0 v

/-- The response of a refused command: `ST = 1, CAUSE = cause, R = 0`. -/
def faultWord (cause : BitVec 8) : ResponseWord := responseWord 1 cause 0

/-- `ST` of a response word. -/
def responseSt (w : ResponseWord) : BitVec 8 := w.extractLsb' 0 8

/-- `CAUSE` of a response word. -/
def responseCause (w : ResponseWord) : BitVec 8 := w.extractLsb' 8 8

/-- `R` of a response word. -/
def responseResult (w : ResponseWord) : Word64 := w.extractLsb' 64 64

/-- One response leaves the block, and `cidx` advances by 1 (R22, R74). -/
def State.answer (s : State) (w : ResponseWord) : State :=
  { s with responses := s.responses ++ [w], cidx := s.cidx + 1 }

/-- `respond(v)` (R11, R75), `v` a number below 2^64. -/
def State.respond (s : State) (v : Nat) : State := s.answer (okWord (BitVec.ofNat 64 v))

/-! ### Taking a fault (60_exceptions.md R172 to R176) -/

/-- The code of a cause (R173). -/
def Cause.code : Cause → BitVec 8
  | .illegal => 1
  | .state => 2
  | .align => 3
  | .range => 4
  | .operand => 5

/-- `raise Fault(cause)` (R172): `FAULT <- 1`, `CAUSE <- cause`, the response; nothing else changes. -/
def State.raiseFault (s : State) (c : Cause) : State :=
  { s with fault := true, cause := c.code }.answer (faultWord c.code)

/-- The sticky response (R174): the stored cause, no state changed. -/
def State.stickyAnswer (s : State) : State := s.answer (faultWord s.cause)

/-- The answer to an illegal word (R176 steps 1 and 2). -/
def State.answerIllegal (s : State) : State := if s.fault then s.stickyAnswer else s.raiseFault .illegal

/-- A check of a command rule: the condition that must hold, and the cause if it does not. -/
abbrev Check := Bool × Cause

/-- The cause of the first failing check (R176). -/
def firstFailing : List Check → Option Cause
  | [] => none
  | (holds, cause) :: rest => if holds then firstFailing rest else some cause

/-- R176 for a legal word: the sticky fault, `CREATED` (for every command but NEW), the command's own checks in order, and
then its effect. -/
def runCommand (needsCreated : Bool) (checks : State → List Check)
    (effect : State → Host.Outcome State Fault Refusal) (s : State) : Host.Outcome State Fault Refusal :=
  if s.fault then .next s.stickyAnswer
  else if needsCreated && !s.created then .next (s.raiseFault .state)
  else
    match firstFailing (checks s) with
    | some c => .next (s.raiseFault c)
    | none => effect s

/-- An effect that needs cells holding a value; the model stops where they do not (log entries 5 and 20). -/
def whenReadable (readable : Bool) (s : State) : Host.Outcome State Fault Refusal :=
  if readable then .next s else .fault .noValue

/-- Every byte of the current segment holds a value. -/
def State.sieveReadable (s : State) : Bool := Store.covers s.bytes s.size.toNat

/-- Every counter in use holds a value. -/
def State.countersReadable (s : State) : Bool := Store.covers s.cnt s.cntn.toNat

/-! ### Reset (70_reset_and_hazards.md R190) -/

/-- The reset input applied between commands: the state after reset, with the block's configuration; what the host has yet
to send stays, and the free values used stay used (log entry 9). -/
def State.applyReset (s : State) : State :=
  { State.afterReset s.cfg with inbox := s.inbox, freeIndex := s.freeIndex }

/-! ### The counter tree (42_fenwick_counters.md R152 to R157) -/

/-- `update`'s loop from counter `j` (R154): `cnt[j] <- cnt[j] - 1` while `j < CNTN`. `j` rises, so `CNTN - j` rounds are
enough (log entry 16). -/
def updateLoop (cntn : Nat) : Nat → Nat → Store (BitVec 64) → Store (BitVec 64)
  | 0, _, cnt => cnt
  | fuel + 1, j, cnt =>
    if j < cntn then
      match Store.read cnt j with
      | some v => updateLoop cntn fuel (upCounter j) (Store.write cnt j (v - 1))
      | none => updateLoop cntn fuel (upCounter j) cnt
    else cnt

/-- `update(k)` (R154). -/
def update (cntn k : Nat) (cnt : Store (BitVec 64)) : Store (BitVec 64) := updateLoop cntn (cntn - k) k cnt

/-- `query`'s loop from counter `j` with the sum so far (R157). `j` falls, so `j + 1` rounds are enough. -/
def queryLoop (cnt : Store (BitVec 64)) : Nat → Nat → Nat → Nat
  | 0, _, sum => sum
  | fuel + 1, j, sum =>
    let sum' := sum + ((Store.read cnt j).map BitVec.toNat).getD 0
    if lo j = 0 then sum' else queryLoop cnt fuel (lo j - 1) sum'

/-- `query(k)` (R157). -/
def query (cnt : Store (BitVec 64)) (k : Nat) : Nat := queryLoop cnt (k + 1) k 0

/-- What CNTFINIT puts into counter `j`: the live positions in `lo(j) .. j` (R152). -/
def initialCounter (m : Memory) (j : Nat) : BitVec 64 := BitVec.ofNat 64 (liveCount m (lo j) (j + 1 - lo j))

/-! ### Wheel-init and the crossing loop (41_sieve30_cross_off.md R125 to R132) -/

/-- The entry `add_wheel(p)` makes for a segment that starts at `start` (R128). -/
def freshEntry (start p : Nat) : WheelEntry :=
  let q := start / p + 1
  let fx := wheelInit (q % 30)
  let mult := p * (q + fx.1)
  { off := BitVec.ofNat 32 ((mult - start) / 30), idx := BitVec.ofNat 8 (wheelOffsets (p % 30) + fx.2) }

/-- `add_wheel(p)` (R128): entry `WCNT` written, `WCNT` raised by 1. -/
def State.addWheel (s : State) (p : Nat) : State :=
  { s with wheel := Store.write s.wheel s.wheelCount (freshEntry s.start.toNat p), wcnt := s.wcnt + 1 }

/-- What a crossing command holds while it runs (R131): the bits, the counters, the running byte offset `m`, the position
`j`, and the first-time crossings so far. -/
structure Crossing where
  bytes : Memory
  cnt : Store (BitVec 64)
  m : Nat
  j : Nat
  total : Nat
deriving DecidableEq, Repr

/-- One step in class `c`, `k = p / 30` (R125; lines 5 to 11 of R131): test, then clear and, when counted, update; then
advance. -/
def crossStep (k c cntn : Nat) (counted : Bool) (x : Crossing) : Crossing :=
  let pos := 8 * x.m + BITPOS c x.j
  let m' := x.m + k * DF x.j + DC c x.j
  let j' := (x.j + 1) % 8
  if live x.bytes pos then
    { bytes := clear x.bytes pos, cnt := if counted then update cntn pos x.cnt else x.cnt, m := m', j := j',
      total := x.total + 1 }
  else { x with m := m', j := j' }

/-- `while m < SIZE` (line 4 of R131), for at most `fuel` steps. -/
def crossLoop (size k c cntn : Nat) (counted : Bool) : Nat → Crossing → Crossing
  | 0, x => x
  | fuel + 1, x => if x.m < size then crossLoop size k c cntn counted fuel (crossStep k c cntn counted x) else x

/-- The rounds R203 says are enough for a segment of `size` bytes: `8*SIZE + 8` (log entry 16). -/
def crossFuel (size : Nat) : Nat := 8 * size + 8

/-- Lines 2 to 14 of R131, for an entry `e` that is present: the state with the bits, counters and entry `i` written, and
the number of first-time crossings. -/
def State.crossEntry (s : State) (i p : Nat) (counted : Bool) (e : WheelEntry) : State × Nat :=
  let c := e.idx.toNat / 8
  let size := s.size.toNat
  let x := crossLoop size (p / 30) c s.cntn.toNat counted (crossFuel size)
    { bytes := s.bytes, cnt := s.cnt, m := e.off.toNat, j := e.idx.toNat % 8, total := 0 }
  ({ s with
      bytes := x.bytes, cnt := x.cnt,
      wheel := Store.write s.wheel i { off := BitVec.ofNat 32 (x.m - size), idx := BitVec.ofNat 8 (8 * c + x.j) } },
    x.total)

/-- `body(i, p, counted)` (R131); `none` when entry `i` holds no value. -/
def State.crossBody (s : State) (i p : Nat) (counted : Bool) : Option (State × Nat) :=
  let s1 := if i = s.wheelCount then s.addWheel p else s
  match Store.read s1.wheel i with
  | some e => some (s1.crossEntry i p counted e)
  | none => none

/-- Check 3 of R130: `7 <= p < 2^32` and `p % 30` in `W`. -/
def sievingOperand (p : Nat) : Bool := decide (7 ≤ p) && decide (p < 2 ^ 32) && inW (p % 30)

/-- Check 4 of R130: if entry `i` exists, its class is that of `p`. (An entry that holds no value has no class to differ;
the body then stops, log entry 5.) -/
def State.classAgrees (s : State) (i p : Nat) : Bool :=
  if i < s.wheelCount then
    match Store.read s.wheel i with
    | some e => e.idx.toNat / 8 == cls (p % 30)
    | none => true
  else true

/-- Checks 2, 3 and 4 of R130, shared by CROSSOFF and CROSSOFFC. -/
def State.crossingChecks (s : State) (i p : Nat) : List Check :=
  [ (decide (4 ≤ i) && decide (i ≤ s.wheelCount) && decide (i < s.wheelCapacity), .range),
    (sievingOperand p, .operand),
    (s.classAgrees i p, .operand) ]

end Sys2Proof.Machine
end

