-- ==== Sys2Proof/Machine/Counters.lean ====
section
/-! DEFINITION. The Unit F commands CNTFINIT, CNTUNSET, CNTQUERY and CROSSOFFC (42_fenwick_counters.md). -/

namespace Sys2Proof.Machine

/-! ### CNTFINIT (R152) -/

/-- The counters of R152 for the current bits: `CNTN <- 8 * SIZE` and `cnt[0 .. CNTN-1]` written. -/
def State.initCounters (s : State) : State :=
  { s.validateCounters with
    cntn := BitVec.ofNat 64 (8 * s.size.toNat)
    cnt := Store.overwrite s.cnt (8 * s.size.toNat) (initialCounter s.bytes) }

/-- `CNTFINIT` (R152). -/
def execCntfinit (s : State) : Host.Outcome State Fault Refusal :=
  runCommand true (fun s => [(s.sieveValid, .state)])
    (fun s => whenReadable s.sieveReadable (s.initCounters.respond 0)) s

/-! ### CNTUNSET (R154, R155) -/

/-- `clear(k); update(k)`, one indivisible action (R56, R154). -/
def State.unset (s : State) (k : Nat) : State :=
  { s with bytes := clear s.bytes k, cnt := update s.cntn.toNat k s.cnt }

/-- `CNTUNSET k` (R155). -/
def execCntunset (k : Word64) (s : State) : Host.Outcome State Fault Refusal :=
  runCommand true
    (fun s => [(s.sieveValid && s.cntValid, .state), (decide (k.toNat < s.cntn.toNat), .range)])
    (fun s =>
      whenReadable ((Store.read s.bytes (k.toNat / 8)).isSome && s.countersReadable)
        (if live s.bytes k.toNat then (s.unset k.toNat).respond 1 else s.respond 0)) s

/-! ### CNTQUERY (R157) -/

/-- `CNTQUERY k` (R157): reads counters only. -/
def execCntquery (k : Word64) (s : State) : Host.Outcome State Fault Refusal :=
  runCommand true
    (fun s => [(s.cntValid, .state), (decide (k.toNat < s.cntn.toNat), .range)])
    (fun s => whenReadable s.countersReadable (s.respond (query s.cnt k.toNat))) s

/-! ### CROSSOFFC (R159) -/

/-- `CROSSOFFC i, p` (R159): the counted body; `CNT_VALID` stays 1. -/
def execCrossoffc (i p : Word64) (s : State) : Host.Outcome State Fault Refusal :=
  runCommand true (fun s => (s.sieveValid && s.cntValid, .state) :: s.crossingChecks i.toNat p.toNat)
    (fun s =>
      match s.crossBody i.toNat p.toNat true with
      | some r => whenReadable (s.sieveReadable && s.countersReadable) (r.1.respond r.2)
      | none => .fault .noValue) s

end Sys2Proof.Machine
end

