-- ==== Sys2Proof/Machine/CrossOff.lean ====
section
/-! DEFINITION. The Unit S command CROSSOFF (41_sieve30_cross_off.md R130, R131). -/

namespace Sys2Proof.Machine

/-- `CROSSOFF i, p` (R130, R131): the body, uncounted; `CNT_VALID` cleared, always; the count answered. -/
def execCrossoff (i p : Word64) (s : State) : Host.Outcome State Fault Refusal :=
  runCommand true (fun s => (s.sieveValid, .state) :: s.crossingChecks i.toNat p.toNat)
    (fun s =>
      match s.crossBody i.toNat p.toNat false with
      | some r => whenReadable s.sieveReadable (r.1.invalidateCounters.respond r.2)
      | none => .fault .noValue) s

end Sys2Proof.Machine
end

