-- ==== Sys2Proof/Machine/Sieve.lean ====
section
/-! DEFINITION. The Unit S commands NEW, SEGSZ, COUNT and PRESIEVE (40_sieve30_basic.md). -/

namespace Sys2Proof.Machine

/-! ### NEW (R90, R91) -/

/-- The checks of R90, in order. -/
def newChecks (start segmentSize wheelCapacity : Nat) (s : State) : List Check :=
  [ (start % 30 == 0, .align),
    (segmentSize % 240 == 0, .align),
    (decide (240 ≤ segmentSize) && decide (segmentSize / 30 ≤ s.cfg.maxBytes), .range),
    (decide (wheelCapacity ≤ s.cfg.maxWheel), .range),
    (decide (start + segmentSize ≤ 2 ^ 63), .operand) ]

/-- The effect of R90. `bytes`, `wheel` and `cnt` are left without a value and `CNTN` with a free one (R90 "State left
unspecified", R91 (a); log entries 6 and 7). -/
def State.newSieve (s : State) (start segmentSize wheelCapacity : Nat) : State :=
  { s.flagsOfNew with
    start := BitVec.ofNat 64 start
    size := BitVec.ofNat 32 (segmentSize / 30)
    wcap := BitVec.ofNat 32 (max 4 wheelCapacity)
    wcnt := 4
    bytes := []
    wheel := []
    cnt := []
    cntn := Config.freeCntn s.freeIndex
    freeIndex := s.freeIndex + 1 }

/-- `NEW start, segment_size, wheel_capacity` (R90). -/
def execNew (start segmentSize wheelCapacity : Word64) (s : State) : Host.Outcome State Fault Refusal :=
  runCommand false (newChecks start.toNat segmentSize.toNat wheelCapacity.toNat)
    (fun s => .next ((s.newSieve start.toNat segmentSize.toNat wheelCapacity.toNat).respond 0)) s

/-! ### SEGSZ (R94) -/

/-- `SEGSZ` (R94): responds `30 * SIZE`. -/
def execSegsz (s : State) : Host.Outcome State Fault Refusal :=
  runCommand true (fun _ => []) (fun s => .next (s.respond (30 * s.size.toNat))) s

/-! ### COUNT (R96 to R98) -/

/-- The checks of R96: `SIEVE_VALID`, and `B < 30 * SIZE` unless `A > B`. -/
def countChecks (startBit stopBit : Nat) (s : State) : List Check :=
  [ (s.sieveValid, .state),
    (decide (stopBit < startBit) || decide (stopBit < 30 * s.size.toNat), .range) ]

/-- The live positions of a segment of `size` bytes whose offset lies in `[first, last]` (R96). -/
def countLive (m : Memory) (size first last : Nat) : Nat :=
  (List.range (8 * size)).countP fun pos =>
    live m pos && decide (first ≤ offOf pos) && decide (offOf pos ≤ last)

/-- `COUNT start_bit, stop_bit` (R96). -/
def execCount (startBit stopBit : Word64) (s : State) : Host.Outcome State Fault Refusal :=
  runCommand true (countChecks startBit.toNat stopBit.toNat)
    (fun s =>
      if stopBit.toNat < startBit.toNat then .next (s.respond 0)
      else
        whenReadable s.sieveReadable
          (s.respond (countLive s.bytes s.size.toNat startBit.toNat stopBit.toNat))) s

/-! ### PRESIEVE (R100 to R107) -/

/-- `4 .. c`, ascending; nothing if `c < 4`. -/
def sievingIndices (c : Nat) : List Nat := List.range' 4 (c + 1 - 4)

/-- Check 7 of R100 for one table index: the checks CROSSOFF makes on `p`, for `p = primes[i]`. -/
def State.tablePrimeFits (s : State) (i : Nat) : Bool :=
  match s.cfg.primes[i]? with
  | some p => sievingOperand p && s.classAgrees i p
  | none => true

/-- The checks of R100, in order. Check 7 looks at no index outside the table, where check 6 has failed already. -/
def presieveChecks (c low high : Nat) (s : State) : List Check :=
  [ (low % 30 == 0, .align),
    (decide (low < high), .operand),
    (decide (high ≤ 2 ^ 63), .operand),
    (decide (high - low ≤ 30 * s.size.toNat), .range),
    ((!s.primed && low == s.start.toNat) || (s.primed && low == s.start.toNat + 30 * s.size.toNat), .operand),
    (decide (c < 4) || (decide (c < s.cfg.primesLen) && decide (c < s.wheelCapacity)), .range),
    (decide (s.cfg.primesLen ≤ c) || (sievingIndices c).all s.tablePrimeFits, .operand) ]

/-- Step 3 of R101: `8 * ceil(d / 240)`. -/
def presieveSize (d : Nat) : Nat := 8 * ((d + 239) / 240)

/-- Step 1 of R101: `bytes[0 .. size-1] <- 0xFF`. -/
def fillBytes (m : Memory) (size : Nat) : Memory := Store.overwrite m size fun _ => (0xFF : Byte)

/-- Step 4 of R101: every position of `0 .. 8*size - 1` whose offset is `>= d` cleared. -/
def maskTail (m : Memory) (size d : Nat) : Memory :=
  (List.range (8 * size)).foldl (fun acc pos => if d ≤ offOf pos then clear acc pos else acc) m

/-- Steps 1 to 6 of R101. Bytes at the new `SIZE` and above hold no value afterwards. -/
def State.openSegment (s : State) (low high : Nat) : State :=
  let d := high - low
  let size := presieveSize d
  { s.flagsOfPresieve with
    bytes := maskTail (Store.truncate (fillBytes s.bytes s.size.toNat) size) size d
    size := BitVec.ofNat 32 size
    start := BitVec.ofNat 64 low }

/-- Step 7 of R101: the crossing body for each index with its table prime, counts discarded. -/
def State.crossAll : List Nat → State → Option State
  | [], s => some s
  | i :: rest, s =>
    match s.cfg.primes[i]? with
    | none => none
    | some p =>
      match s.crossBody i p false with
      | none => none
      | some r => State.crossAll rest r.1

/-- `PRESIEVE c, low, high` (R100, R101). -/
def execPresieve (c low high : Word64) (s : State) : Host.Outcome State Fault Refusal :=
  runCommand true (presieveChecks c.toNat low.toNat high.toNat)
    (fun s =>
      match State.crossAll (sievingIndices c.toNat) (s.openSegment low.toNat high.toNat) with
      | some t => .next (t.respond 0)
      | none => .fault .noValue) s

end Sys2Proof.Machine
end

