-- ==== Sys2Proof/Syntax.lean ====
section
/-! DEFINITION. The command set: one constructor per row of spec/opcode_table.json (30_encoding.md R73, R76), and the
five fields of a command word (R71). -/

namespace Sys2Proof

/-- The nine commands, each with the operands R73 assigns it, in the order A, B, C. Operands are whole unsigned 64-bit
fields (R72). -/
inductive Instr where
  /-- `NEW start, segment_size, wheel_capacity` (40_sieve30_basic.md R90). -/
  | new (start segmentSize wheelCapacity : Word64)
  /-- `SEGSZ` (R94). -/
  | segsz
  /-- `COUNT start_bit, stop_bit` (R96). -/
  | count (startBit stopBit : Word64)
  /-- `PRESIEVE c, low, high` (R100). -/
  | presieve (c low high : Word64)
  /-- `CROSSOFF i, p` (41_sieve30_cross_off.md R130). -/
  | crossoff (i p : Word64)
  /-- `CNTFINIT` (42_fenwick_counters.md R152). -/
  | cntfinit
  /-- `CNTUNSET k` (R155). -/
  | cntunset (k : Word64)
  /-- `CNTQUERY k` (R157). -/
  | cntquery (k : Word64)
  /-- `CROSSOFFC i, p` (R159). -/
  | crossoffc (i p : Word64)
deriving DecidableEq, Repr

/-- The fields of the command format `CMD` (R71), before any check. -/
structure CommandFields where
  op : BitVec 8
  rsv : BitVec 56
  a : Word64
  b : Word64
  c : Word64
deriving DecidableEq, Repr

end Sys2Proof
end

