-- ==== Sys2Proof/Machine/Dispatch.lean ====
section
/-! DEFINITION. One arm per command (30_encoding.md R76). -/

namespace Sys2Proof.Machine

def exec (i : Instr) (s : State) : Host.Outcome State Fault Refusal :=
  match i with
  | .new start segmentSize wheelCapacity => Sys2Proof.Machine.execNew start segmentSize wheelCapacity s
  | .segsz => Sys2Proof.Machine.execSegsz s
  | .count startBit stopBit => Sys2Proof.Machine.execCount startBit stopBit s
  | .presieve c low high => Sys2Proof.Machine.execPresieve c low high s
  | .crossoff k p => Sys2Proof.Machine.execCrossoff k p s
  | .cntfinit => Sys2Proof.Machine.execCntfinit s
  | .cntunset k => Sys2Proof.Machine.execCntunset k s
  | .cntquery k => Sys2Proof.Machine.execCntquery k s
  | .crossoffc k p => Sys2Proof.Machine.execCrossoffc k p s

end Sys2Proof.Machine
end

