-- ==== Sys2Proof/WellFormed.lean ====
section
/-! DEFINITION. What is well formed: a configuration (00_scope.md R6, 93_implementation_defined.md U7), the fields of a
command word (30_encoding.md R78), an instruction (R72). -/

namespace Sys2Proof

/-- The constraints of R6; U7 says that a configuration breaking one is refused. -/
def Config.wf (c : Config) : Bool :=
  c.maxBytes % 8 == 0 && decide (8 ≤ c.maxBytes) && decide (c.maxBytes < 2 ^ 32) &&
  decide (4 ≤ c.maxWheel) && decide (c.maxWheel ≤ 2 ^ 32) &&
  c.maxCnt == 8 * c.maxBytes && decide (5 ≤ c.primesLen)

/-- Which operand fields an opcode uses, as (A, B, C); `none` for an `OP` that is no command (R73, R76). -/
def operandsUsed (op : BitVec 8) : Option (Bool × Bool × Bool) :=
  match op.toNat with
  | 0x01 => some (true, true, true)
  | 0x02 => some (false, false, false)
  | 0x03 => some (true, true, false)
  | 0x04 => some (true, true, true)
  | 0x05 => some (true, true, false)
  | 0x10 => some (false, false, false)
  | 0x11 => some (true, false, false)
  | 0x12 => some (true, false, false)
  | 0x13 => some (true, true, false)
  | _ => none

/-- The negation of R78's "illegal": `OP` is one of the nine values, `RSV` is 0, and every operand field the opcode does
not use is 0. -/
def CommandFields.wf (f : CommandFields) : Bool :=
  match operandsUsed f.op with
  | none => false
  | some (useA, useB, useC) =>
    f.rsv == 0 && (useA || f.a == 0) && (useB || f.b == 0) && (useC || f.c == 0)

/-- R72: range limits on operands are preconditions of the commands, "not properties of the encoding". Every `Instr` is
well formed: its operands are 64-bit fields and it has no unused ones. -/
def Instr.wf : Instr → Bool
  | .new _ _ _ => true
  | .segsz => true
  | .count _ _ => true
  | .presieve _ _ _ => true
  | .crossoff _ _ => true
  | .cntfinit => true
  | .cntunset _ => true
  | .cntquery _ => true
  | .crossoffc _ _ => true

end Sys2Proof
end

