-- ==== Sys2Proof/Decode.lean ====
section
/-! DEFINITION. Decoding and encoding of command words (30_encoding.md R70 to R79), and their serialisation as bytes,
least significant byte first (20_memory.md R52). -/

namespace Sys2Proof

/-- Why a word is no command (R78), or why bytes are no word (R70: "a decoder always consumes exactly 256 bits"). -/
inductive DecodeError where
  /-- `OP` is not one of the nine values. -/
  | unknownOpcode (op : BitVec 8)
  /-- `RSV` is not 0. -/
  | reservedNotZero
  /-- An operand field marked `Z` for this opcode is not 0. -/
  | unusedOperandNotZero
  /-- Not exactly 32 bytes. -/
  | wrongLength (bytes : Nat)
deriving DecidableEq, Repr

/-- The five fields of a command word (R71). -/
def fieldsOf (w : CommandWord) : CommandFields where
  op := w.extractLsb' 0 8
  rsv := w.extractLsb' 8 56
  a := w.extractLsb' 64 64
  b := w.extractLsb' 128 64
  c := w.extractLsb' 192 64

/-- The word with given fields: `OP + RSV * 2^8 + A * 2^64 + B * 2^128 + C * 2^192` (R71). -/
def wordOf (f : CommandFields) : CommandWord := f.c ++ f.b ++ f.a ++ f.rsv ++ f.op

/-- The `OP` value of each command (R76). -/
def Instr.opcode : Instr → BitVec 8
  | .new _ _ _ => 0x01
  | .segsz => 0x02
  | .count _ _ => 0x03
  | .presieve _ _ _ => 0x04
  | .crossoff _ _ => 0x05
  | .cntfinit => 0x10
  | .cntunset _ => 0x11
  | .cntquery _ => 0x12
  | .crossoffc _ _ => 0x13

/-- The command an opcode and three operand fields spell (R73, R76), unused operands not looked at. -/
def instrOf (op : BitVec 8) (a b c : Word64) : Option Instr :=
  match op.toNat with
  | 0x01 => some (.new a b c)
  | 0x02 => some .segsz
  | 0x03 => some (.count a b)
  | 0x04 => some (.presieve a b c)
  | 0x05 => some (.crossoff a b)
  | 0x10 => some .cntfinit
  | 0x11 => some (.cntunset a)
  | 0x12 => some (.cntquery a)
  | 0x13 => some (.crossoffc a b)
  | _ => none

/-- Decoding, total on every 256-bit word and from the word alone (R78, R79). -/
def decode (w : CommandWord) : Except DecodeError Instr :=
  let f := fieldsOf w
  match instrOf f.op f.a f.b f.c with
  | none => .error (.unknownOpcode f.op)
  | some i =>
    if f.rsv != 0 then .error .reservedNotZero
    else if !f.wf then .error .unusedOperandNotZero
    else .ok i

/-- The fields that spell a command: its operands in R73's places, every other field 0 (R72, R76). -/
def Instr.fields (i : Instr) : CommandFields :=
  match i with
  | .new a b c => ⟨i.opcode, 0, a, b, c⟩
  | .segsz => ⟨i.opcode, 0, 0, 0, 0⟩
  | .count a b => ⟨i.opcode, 0, a, b, 0⟩
  | .presieve a b c => ⟨i.opcode, 0, a, b, c⟩
  | .crossoff a b => ⟨i.opcode, 0, a, b, 0⟩
  | .cntfinit => ⟨i.opcode, 0, 0, 0, 0⟩
  | .cntunset a => ⟨i.opcode, 0, a, 0, 0⟩
  | .cntquery a => ⟨i.opcode, 0, a, 0, 0⟩
  | .crossoffc a b => ⟨i.opcode, 0, a, b, 0⟩

/-- The word that spells a command (R71, R73, R76). -/
def encode (i : Instr) : CommandWord := wordOf i.fields

/-- A row of the opcode map: a word `w` spells the row's command iff `w & mask == match` (R76, R77). -/
structure OpcodeRow where
  mnemonic : String
  mask : CommandWord
  value : CommandWord
deriving DecidableEq, Repr

/-- `F64` of R77, in the 256-bit word. -/
def f64 : CommandWord := 0xFFFFFFFFFFFFFFFF

/-- The rows of R76 with the masks of R77; `value` is the table's `match`, which is `OP` for every command. -/
def opcodeRows : List OpcodeRow :=
  [ ⟨"NEW", f64, 0x01⟩,
    ⟨"SEGSZ", BitVec.allOnes 256, 0x02⟩,
    ⟨"COUNT", f64 + (f64 <<< 192), 0x03⟩,
    ⟨"PRESIEVE", f64, 0x04⟩,
    ⟨"CROSSOFF", f64 + (f64 <<< 192), 0x05⟩,
    ⟨"CNTFINIT", BitVec.allOnes 256, 0x10⟩,
    ⟨"CNTUNSET", f64 + (f64 <<< 128) + (f64 <<< 192), 0x11⟩,
    ⟨"CNTQUERY", f64 + (f64 <<< 128) + (f64 <<< 192), 0x12⟩,
    ⟨"CROSSOFFC", f64 + (f64 <<< 192), 0x13⟩ ]

/-- Does a word spell the row's command? (R76) -/
def OpcodeRow.spells (r : OpcodeRow) (w : CommandWord) : Bool := w &&& r.mask == r.value

/-- Each command's mnemonic (R76). -/
def Instr.mnemonic : Instr → String
  | .new _ _ _ => "NEW"
  | .segsz => "SEGSZ"
  | .count _ _ => "COUNT"
  | .presieve _ _ _ => "PRESIEVE"
  | .crossoff _ _ => "CROSSOFF"
  | .cntfinit => "CNTFINIT"
  | .cntunset _ => "CNTUNSET"
  | .cntquery _ => "CNTQUERY"
  | .crossoffc _ _ => "CROSSOFFC"

/-- The first `count` bytes of a word, the least significant first (R52). -/
def serialise {bits : Nat} (count : Nat) (w : BitVec bits) : List Byte :=
  (List.range count).map fun t => w.extractLsb' (8 * t) 8

/-- A command word as a transport sends it: 32 bytes, the least significant first (R52, R70). -/
def bytesOfWord (w : CommandWord) : List Byte := serialise 32 w

/-- A response word as a transport sends it: 16 bytes, the least significant first (R52, R70). -/
def bytesOfResponse (r : ResponseWord) : List Byte := serialise 16 r

/-- The number whose bytes, least significant first, are given (R52). -/
def natOfBytes : List Byte → Nat
  | [] => 0
  | b :: rest => b.toNat + 256 * natOfBytes rest

/-- Decoding of serialised bytes (R52). The model takes exactly 32 of them, one word of R70 (log entry 18). -/
def decodeBytes (bytes : List Byte) : Except DecodeError Instr :=
  if bytes.length = 32 then decode (BitVec.ofNat 256 (natOfBytes bytes)) else .error (.wrongLength bytes.length)

/-- The response word a host reads from serialised bytes (R52). The model takes exactly 16 of them (log entry 18). -/
def responseOfBytes (bytes : List Byte) : Option ResponseWord :=
  if bytes.length = 16 then some (BitVec.ofNat 128 (natOfBytes bytes)) else none

/-- The instruction the decoder reads from a word whose low `nbits` bits are `w` and whose other bits are 0, laid out in
bytes as R52 says. -/
def decodeTableWord (nbits w : Nat) : Option Instr :=
  (decodeBytes (bytesOfWord (BitVec.ofNat 256 (w % 2 ^ nbits)))).toOption

end Sys2Proof
end

