-- ==== Sys2Proof/Machine/Fetch.lean ====
section
/-! DEFINITION. How the next host input reaches the block. There is no instruction fetch (10_state.md R22, 20_memory.md
R52): commands are pushed by the host and taken in arrival order (00_scope.md R14, 70_reset_and_hazards.md R201). -/

namespace Sys2Proof.Machine

/-- What the block finds on its inputs. -/
inductive Fetched where
  /-- Nothing was sent. -/
  | idle
  /-- The reset input, and the state with it consumed. -/
  | reset (s : State)
  /-- A legal command word, decoded, and the state with it consumed. -/
  | command (i : Instr) (s : State)
  /-- A word that is no command, and the state with it consumed. -/
  | illegal (s : State)
deriving DecidableEq, Repr

/-- The oldest input, decoded from the word alone (30_encoding.md R79). -/
def fetch (s : State) : Fetched :=
  match s.inbox with
  | [] => .idle
  | .reset :: rest => .reset { s with inbox := rest }
  | .command w :: rest =>
    match decode w with
    | .ok i => .command i { s with inbox := rest }
    | .error _ => .illegal { s with inbox := rest }

/-- The host puts the word with bits `w` below `nbits`, and 0 above, before everything it has yet to send. -/
def pushFront (s : State) (nbits w : Nat) : State :=
  { s with inbox := .command (BitVec.ofNat 256 (w % 2 ^ nbits)) :: s.inbox }

/-- The host sends command words, after everything it has yet to send (R201). -/
def State.send (s : State) (ws : List CommandWord) : State :=
  { s with inbox := s.inbox ++ ws.map HostInput.command }

end Sys2Proof.Machine
end

