-- ==== Sys2Proof/Machine/Step.lean ====
section
/-! DEFINITION. One step: the block takes the oldest host input and carries it out (00_scope.md R14, 20_memory.md R60).
With no input it holds its state (60_exceptions.md R185; log entry 10). -/

namespace Sys2Proof.Machine

/-- One step. A configuration that R6 does not allow is refused (93_implementation_defined.md U7; log entry 11). -/
def step (s : State) : Host.Outcome State Fault Refusal :=
  if s.cfg.wf then
    match fetch s with
    | .idle => .next s
    | .reset t => .next t.applyReset
    | .command i t => exec i t
    | .illegal t => .next t.answerIllegal
  else .refused .badConfiguration

/-- `s` with an instruction's word next in line on the command port (log entry 1). -/
def State.withFetchWord (s : State) (nbits w : Nat) : State := pushFront s nbits w

end Sys2Proof.Machine
end

