-- ==== Sys2Proof/Machine/Assembler.lean ====
section
/-! DEFINITION. The notation for commands and responses (30_encoding.md R80): a mnemonic and its used operands, in the order
A, B, C; after `->` a result number, `ok`, or `fault(<CAUSE name>)`. No command depends on it
(log entry 21). -/

namespace Sys2Proof.Machine

/-- The used operands of a command, in the order A, B, C (R73, R80). -/
def operandsOf : Instr → List Nat
  | .new a b c => [a.toNat, b.toNat, c.toNat]
  | .segsz => []
  | .count a b => [a.toNat, b.toNat]
  | .presieve a b c => [a.toNat, b.toNat, c.toNat]
  | .crossoff a b => [a.toNat, b.toNat]
  | .cntfinit => []
  | .cntunset a => [a.toNat]
  | .cntquery a => [a.toNat]
  | .crossoffc a b => [a.toNat, b.toNat]

/-- An operand as written: a number that fits its 64-bit field (R72). -/
def operandField (n : Nat) : Option Word64 := if n < 2 ^ 64 then some (BitVec.ofNat 64 n) else none

/-- The command a mnemonic and its written operands spell; operands not written are encoded as 0 (R80). -/
def assemble (mnemonic : String) (operands : List Nat) : Option Instr :=
  match operands.mapM operandField with
  | none => none
  | some fields =>
    match fields with
    | [] => if mnemonic == "SEGSZ" then some .segsz else if mnemonic == "CNTFINIT" then some .cntfinit else none
    | [a] => if mnemonic == "CNTUNSET" then some (.cntunset a) else if mnemonic == "CNTQUERY" then some (.cntquery a) else none
    | [a, b] =>
      if mnemonic == "COUNT" then some (.count a b)
      else if mnemonic == "CROSSOFF" then some (.crossoff a b)
      else if mnemonic == "CROSSOFFC" then some (.crossoffc a b)
      else none
    | [a, b, c] =>
      if mnemonic == "NEW" then some (.new a b c) else if mnemonic == "PRESIEVE" then some (.presieve a b c) else none
    | _ => none

/-- A command as written, operands in decimal. -/
def renderCommand (i : Instr) : String :=
  match operandsOf i with
  | [] => i.mnemonic
  | operands => i.mnemonic ++ " " ++ String.intercalate ", " (operands.map toString)

/-- Does the command have a result? NEW, PRESIEVE and CNTFINIT answer `R = 0` without one (R75, R76). -/
def hasResult : Instr → Bool
  | .new _ _ _ => false
  | .segsz => true
  | .count _ _ => true
  | .presieve _ _ _ => false
  | .crossoff _ _ => true
  | .cntfinit => false
  | .cntunset _ => true
  | .cntquery _ => true
  | .crossoffc _ _ => true

/-- The name of a cause code (60_exceptions.md R173). -/
def causeName (code : BitVec 8) : String :=
  match code.toNat with
  | 1 => "ILLEGAL"
  | 2 => "STATE"
  | 3 => "ALIGN"
  | 4 => "RANGE"
  | 5 => "OPERAND"
  | _ => "(none)"

/-- A response to a command as written after `->`. -/
def renderResponse (i : Instr) (w : ResponseWord) : String :=
  if responseSt w = 0 then
    if hasResult i then toString (responseResult w).toNat else "ok"
  else "fault(" ++ causeName (responseCause w) ++ ")"

/-! ### Reading the notation, character by character -/

/-- What a line of the notation expects of a response. -/
inductive Expected where
  /-- `ok`: result 0 of a command without a result. -/
  | ok
  /-- A result number. -/
  | result (n : Nat)
  /-- `fault(<CAUSE name>)`. -/
  | fault (cause : Cause)
deriving DecidableEq, Repr

/-- Does a response to a command meet what its line expects? -/
def Expected.metBy (e : Expected) (i : Instr) (w : ResponseWord) : Bool :=
  match e with
  | .ok => responseSt w == 0 && !hasResult i
  | .result n => responseSt w == 0 && hasResult i && (responseResult w).toNat == n
  | .fault c => responseSt w == 1 && responseCause w == c.code

/-- Is the character a space within a line? -/
def isBlank (c : Char) : Bool := c == ' ' || c == '\t' || c == '\r'

/-- Spaces at both ends dropped. -/
def trimBlanks (cs : List Char) : List Char := ((cs.dropWhile isBlank).reverse.dropWhile isBlank).reverse

/-- The text before a comment, which `--` starts. -/
def withoutComment : List Char → List Char
  | [] => []
  | '-' :: '-' :: _ => []
  | c :: rest => c :: withoutComment rest

/-- The parts of a text between separators. -/
def splitParts (sep : Char) : List Char → List (List Char)
  | [] => [[]]
  | c :: rest =>
    match splitParts sep rest with
    | [] => [[c]]
    | part :: parts => if c == sep then [] :: part :: parts else (c :: part) :: parts

/-- The text before `->`, and the text after it where there is one. -/
def splitArrow : List Char → List Char × Option (List Char)
  | [] => ([], none)
  | '-' :: '>' :: rest => ([], some rest)
  | c :: rest =>
    let x := splitArrow rest
    (c :: x.1, x.2)

/-- The value of a digit in a base up to 16. -/
def digitOf (base : Nat) (c : Char) : Option Nat :=
  let n := c.toNat
  let v :=
    if 48 ≤ n ∧ n ≤ 57 then n - 48
    else if 97 ≤ n ∧ n ≤ 102 then n - 87
    else if 65 ≤ n ∧ n ≤ 70 then n - 55
    else base
  if v < base then some v else none

/-- Digits, the most significant first, after a number read so far. -/
def readDigits (base : Nat) : Nat → List Char → Option Nat
  | n, [] => some n
  | n, c :: rest =>
    match digitOf base c with
    | some d => readDigits base (n * base + d) rest
    | none => none

/-- A number, decimal or `0x` hexadecimal. -/
def readNumber (cs : List Char) : Option Nat :=
  match cs with
  | [] => none
  | ['0', 'x'] => none
  | '0' :: 'x' :: digits => readDigits 16 0 digits
  | digits => readDigits 10 0 digits

/-- The cause a name stands for (R173). -/
def causeNamed (name : String) : Option Cause :=
  [Cause.illegal, .state, .align, .range, .operand].find? fun c => causeName c.code == name

/-- What stands after `->`. -/
def readExpected (cs : List Char) : Option Expected :=
  match cs with
  | ['o', 'k'] => some .ok
  | 'f' :: 'a' :: 'u' :: 'l' :: 't' :: '(' :: rest =>
    if rest.getLast? == some ')' then (causeNamed (String.ofList rest.dropLast)).map .fault else none
  | digits => (readNumber digits).map .result

/-- One command as written: its mnemonic, its used operands separated by commas, and the response expected, if written. -/
def readCommand (cs : List Char) : Option (Instr × Option Expected) :=
  let parts := splitArrow cs
  let text := trimBlanks parts.1
  let operandText := trimBlanks (text.dropWhile fun c => !isBlank c)
  let operands :=
    if operandText.isEmpty then some [] else (splitParts ',' operandText).mapM fun part => readNumber (trimBlanks part)
  match operands.bind fun ns => assemble (String.ofList (text.takeWhile fun c => !isBlank c)) ns with
  | none => none
  | some i =>
    match parts.2 with
    | none => some (i, none)
    | some after => (readExpected (trimBlanks after)).map fun e => (i, some e)

/-- A program as written: commands one per line, or several on a line separated by `;`, executed left to right; empty
parts are skipped. -/
def readProgram (cs : List Char) : Option (List (Instr × Option Expected)) :=
  let commands := (splitParts '\n' cs).flatMap fun line => splitParts ';' (withoutComment line)
  ((commands.map trimBlanks).filter fun c => !c.isEmpty).mapM readCommand

end Sys2Proof.Machine
end

