-- ==== Sys2Proof/Safety.lean ====
section
/-! DEFINITION. What counts as a safe state and a successful run, in the terms the statements use. -/

namespace Sys2Proof.Machine

/-! ### Runs -/

/-- 70_reset_and_hazards.md R202: successful iff no response had `ST = 1`. -/
def State.successful (s : State) : Bool := s.responses.all fun r => responseSt r == 0

/-- The format `RSP` of 30_encoding.md R75. -/
def wellFormedResponse (r : ResponseWord) : Prop :=
  r.extractLsb' 16 48 = 0 ∧
    ((responseSt r = 0 ∧ responseCause r = 0) ∨ (responseSt r = 1 ∧ responseCause r ≠ 0 ∧ responseResult r = 0))

/-- The state a fault leaves (60_exceptions.md R172), written out. -/
def State.afterFault (s : State) (c : Cause) : State :=
  { s with
    fault := true, cause := c.code,
    responses := s.responses ++ [faultWord c.code], cidx := s.cidx + 1 }

/-- The state a command leaves that answers `v` and changes nothing. -/
def State.afterResult (s : State) (v : Nat) : State :=
  { s with responses := s.responses ++ [okWord (BitVec.ofNat 64 v)], cidx := s.cidx + 1 }

/-- The causes each command may raise (60_exceptions.md R173, column "Raised by"; ILLEGAL is the word's, not a command's). -/
def causesOf : Instr → List Cause
  | .new _ _ _ => [.align, .range, .operand]
  | .segsz => [.state]
  | .count _ _ => [.state, .range]
  | .presieve _ _ _ => [.state, .align, .range, .operand]
  | .crossoff _ _ => [.state, .range, .operand]
  | .cntfinit => [.state]
  | .cntunset _ => [.state, .range]
  | .cntquery _ => [.state, .range]
  | .crossoffc _ _ => [.state, .range, .operand]

/-! ### The invariant -/

/-- What every reachable state satisfies: the invariants of 10_state.md R23 to R31, and that exactly the cells the spec gives
a value hold one. -/
structure State.Inv (s : State) : Prop where
  /-- R6. -/
  cfg_wf : s.cfg.wf = true
  /-- R22, R74: one response for each answered command. -/
  index : s.cidx = s.responses.length
  /-- R23: `CAUSE` is 0 while `FAULT = 0`; a cause code is never 0. -/
  cause_iff : s.cause = 0 ↔ s.fault = false
  /-- R173: codes 6..255 are never produced. -/
  cause_le : s.cause.toNat ≤ 5
  /-- R23: PRESIEVE needs `CREATED`. -/
  sieve_created : s.sieveValid = true → s.created = true
  /-- R23: `PRIMED` and `SIEVE_VALID` are set and cleared by the same events. -/
  primed_sieve : s.primed = s.sieveValid
  /-- R23: CNTFINIT needs `SIEVE_VALID`, and NEW clears both. -/
  cnt_sieve : s.cntValid = true → s.sieveValid = true
  /-- R24, R25, R26. -/
  registers : s.created = true →
    s.start.toNat % 30 = 0 ∧ s.start.toNat < 2 ^ 63 ∧
    s.size.toNat % 8 = 0 ∧ 8 ≤ s.size.toNat ∧ s.size.toNat ≤ s.cfg.maxBytes ∧
    4 ≤ s.wheelCount ∧ s.wheelCount ≤ s.wheelCapacity ∧ s.wheelCapacity ≤ s.cfg.maxWheel
  /-- R27: `bytes[0 .. SIZE-1]` hold values once PRESIEVE has run, and nothing else does. -/
  bytes_present : s.bytes.map Prod.fst = if s.sieveValid then List.range s.size.toNat else []
  /-- R29: entries `4 .. WCNT-1` hold values, and nothing else does. -/
  wheel_present : s.wheel.map Prod.fst = if s.created then List.range' 4 (s.wheelCount - 4) else []
  /-- R29: values 64..255 of `idx` are never produced. -/
  wheel_states : ∀ x ∈ s.wheel, x.2.idx.toNat < 64
  /-- The canonical form of the counter memory. -/
  cnt_wf : Store.wf s.cnt
  /-- R31, R155: while `CNT_VALID = 1`, `CNTN == 8 * SIZE` and the counters in use hold values. -/
  counters_present : s.cntValid = true →
    s.cntn.toNat = 8 * s.size.toNat ∧ Store.covers s.cnt s.cntn.toNat = true

/-- 10_state.md R32: the tree is consistent with the bits. -/
def State.treeConsistent (s : State) : Prop :=
  ∀ j, j < s.cntn.toNat →
    ∃ v, Store.read s.cnt j = some v ∧
      v.toNat = ((Finset.Icc (lo j) j).filter fun pos => live s.bytes pos = true).card

/-- 10_state.md R32: "`CNT_VALID = 1` asserts exactly this". -/
def State.countersConsistent (s : State) : Prop := s.cntValid = true → s.treeConsistent

/-! ### Multiples of a sieving prime -/

/-- The integer a bit position stands for (00_scope.md R12). -/
def State.integerAt (s : State) (pos : Nat) : Nat := s.start.toNat + offOf pos

/-- The running byte offset and position after `n` steps from offset `m` and position `j` (41_sieve30_cross_off.md R125). -/
def crossAt (k c m j : Nat) : Nat → Nat × Nat
  | 0 => (m, j)
  | n + 1 =>
    let x := crossAt k c m j n
    (x.1 + k * DF x.2 + DC c x.2, (x.2 + 1) % 8)

/-- The wheel entry a crossing command starts from (R128, R131 lines 1 and 2): the stored one, or a fresh one for a new
entry. -/
def State.entryAt (s : State) (i p : Nat) : Option WheelEntry :=
  if i = s.wheelCount then some (freshEntry s.start.toNat p) else Store.read s.wheel i

/-- The checks of R130 on `i` and `p`, beyond the flags. -/
def State.crossable (s : State) (i p : Nat) : Prop :=
  4 ≤ i ∧ i ≤ s.wheelCount ∧ i < s.wheelCapacity ∧ 7 ≤ p ∧ p < 2 ^ 32 ∧ p % 30 ∈ W ∧
    ∀ e, i < s.wheelCount → Store.read s.wheel i = some e → e.idx.toNat / 8 = cls (p % 30)

/-- The checks of 40_sieve30_basic.md R100, all seven. -/
def State.presievable (s : State) (c low high : Nat) : Prop :=
  low % 30 = 0 ∧ low < high ∧ high ≤ 2 ^ 63 ∧ high - low ≤ 30 * s.size.toNat ∧
    ((s.primed = false ∧ low = s.start.toNat) ∨ (s.primed = true ∧ low = s.start.toNat + 30 * s.size.toNat)) ∧
    (4 ≤ c → c < s.cfg.primesLen ∧ c < s.wheelCapacity) ∧
    ∀ i p, 4 ≤ i → i ≤ c → s.cfg.primes[i]? = some p →
      7 ≤ p ∧ p < 2 ^ 32 ∧ p % 30 ∈ W ∧
        ∀ e, i < s.wheelCount → Store.read s.wheel i = some e → e.idx.toNat / 8 = cls (p % 30)

/-- The number of positions below `n` that are live in `m` and dead in `m'`. -/
def died (m m' : Memory) (n : Nat) : Nat :=
  ((Finset.range n).filter fun pos => live m pos = true ∧ live m' pos = false).card

/-- 41_sieve30_cross_off.md R134: the entry names the multiple `p * w`, measured from `start`. -/
def namesMultiple (start : Nat) (e : WheelEntry) (p w : Nat) : Prop :=
  p % 30 = residue (e.idx.toNat / 8) ∧ e.idx.toNat / 8 < 8 ∧
  w % 30 = residue (e.idx.toNat % 8) ∧
  p * w = start + 30 * e.off.toNat + (residue (e.idx.toNat / 8) * residue (e.idx.toNat % 8)) % 30

/-- The entry names the first multiple of `p` above `start` whose cofactor is coprime to 30: it is not stale (R30, R134). -/
def tracks (start : Nat) (e : WheelEntry) (p : Nat) : Prop :=
  ∃ w, namesMultiple start e p w ∧ ∀ w', Nat.Coprime w' 30 → start < p * w' → w ≤ w'

/-- Each of the entries `4 .. c` that is present tracks its table prime from `start` on (70_reset_and_hazards.md R197,
R199). Entries above `c` may be stale. -/
def State.wheelTracks (s : State) (c start : Nat) : Prop :=
  ∀ i e, 4 ≤ i → i ≤ c → Store.read s.wheel i = some e → ∃ p, s.cfg.primes[i]? = some p ∧ tracks start e p

/-- The commands `CROSSOFF i, primes[i]` for each index in turn; `none` where one has no table prime, faults or stops. -/
def State.crossoffEach : List Nat → State → Option State
  | [], s => some s
  | i :: rest, s =>
    match s.cfg.primes[i]? with
    | none => none
    | some p =>
      match exec (.crossoff (BitVec.ofNat 64 i) (BitVec.ofNat 64 p)) s with
      | .next t => if t.fault then none else State.crossoffEach rest t
      | .fault _ => none
      | .refused _ => none

/-- 10_state.md R28: the live bits are exactly the integers below `high` that no member of `ps` divides. -/
def State.sievedBy (s : State) (high : Nat) (ps : List Nat) : Prop :=
  ∀ pos, pos < 8 * s.size.toNat →
    (live s.bytes pos = true ↔ s.integerAt pos < high ∧ ∀ p ∈ ps, ¬ p ∣ s.integerAt pos)

/-- The contract of the prime table (20_memory.md R57): entry `i` is the i-th prime, below 2^32. -/
def primesContract (c : Config) : Prop :=
  ∀ i, 4 ≤ i → i < c.primesLen → c.primes[i]? = some (Nat.nth Nat.Prime (i - 1)) ∧ Nat.nth Nat.Prime (i - 1) < 2 ^ 32

end Sys2Proof.Machine
end

