-- ==== Sys2Proof/Certificates/Slice0/Obligations.lean ====
section
/-! DEFINITION. The statements for the provers, from the numbered rules of spec/. -/

open Sys2Proof Sys2Proof.Machine

/-! ### Encoding -/

/-- R71, R73, R76: decoding an encoded command gives it back, every operand at every value. -/
def Obligations.DecodeEncodeRoundTrip : Prop :=
  ∀ i : Instr, i.wf = true → decode (encode i) = .ok i

/-- R78: the decoder accepts no stray bit: a word that decodes to a command is the command's encoding. -/
def Obligations.EncodeDecodeExact : Prop :=
  ∀ (w : CommandWord) (i : Instr), decode w = .ok i → encode i = w

/-- R76, R77: a word decodes to a command iff its row, and no other, is spelled by `w & mask == match`. -/
def Obligations.DecodeAgreesWithOpcodeMap : Prop :=
  (∀ (w : CommandWord) (i : Instr), decode w = .ok i →
    ∀ r ∈ opcodeRows, (r.spells w = true ↔ r.mnemonic = i.mnemonic)) ∧
  (∀ w : CommandWord, (∃ r ∈ opcodeRows, r.spells w = true) → ∃ i, decode w = .ok i)

/-- R78, whole: which words are illegal, that the rows are disjoint, and what an illegal word does. -/
def Obligations.IllegalWordRaisesIllegal : Prop :=
  (∀ w : CommandWord, (∃ e, decode w = .error e) ↔ ∀ r ∈ opcodeRows, r.spells w = false) ∧
  (∀ w : CommandWord, (∃ e, decode w = .error e) ↔
    (operandsUsed (fieldsOf w).op = none ∨ (fieldsOf w).rsv ≠ 0 ∨
      ∃ a b c, operandsUsed (fieldsOf w).op = some (a, b, c) ∧
        ((a = false ∧ (fieldsOf w).a ≠ 0) ∨ (b = false ∧ (fieldsOf w).b ≠ 0) ∨ (c = false ∧ (fieldsOf w).c ≠ 0)))) ∧
  (opcodeRows.Pairwise fun r r' => ∀ w : CommandWord, ¬ (r.spells w = true ∧ r'.spells w = true)) ∧
  (∀ (s : State) (w : CommandWord) (rest : List HostInput) (e : DecodeError),
    s.cfg.wf = true → s.inbox = .command w :: rest → decode w = .error e → s.fault = false →
      step s = .next (({ s with inbox := rest } : State).afterFault .illegal))

/-- Words of R81 and of 95_test_vectors.md V1, written out, decode to the commands they stand for. -/
def Obligations.SampleWordsDecode : Prop :=
  decode 0x0000000000000008_00000000000000F0_0000000000000000_0000000000000001 = .ok (.new 0 240 8) ∧
  decode 0x0000000000000000_0000000000000000_0000000000000000_0000000000000002 = .ok .segsz ∧
  decode 0x0000000000000000_00000000000000EF_0000000000000000_0000000000000003 = .ok (.count 0 239) ∧
  decode 0x00000000000000F0_0000000000000000_0000000000000007_0000000000000004 = .ok (.presieve 7 0 240) ∧
  decode 0x0000000000000000_0000000000000013_0000000000000008_0000000000000005 = .ok (.crossoff 8 19) ∧
  decode 0x0000000000000000_0000000000000000_000000000000003F_0000000000000012 = .ok (.cntquery 63)

/-- R52: command and response words go least significant byte first, and are read back as they were. That a list of any
other length is refused is the model's form (DEDUCED, log entry 18). -/
def Obligations.SerialisedWordsDecode : Prop :=
  (∀ w : CommandWord, (bytesOfWord w).length = 32 ∧
    (∀ t, t < 32 → (bytesOfWord w)[t]? = some (BitVec.ofNat 8 (w.toNat / 256 ^ t))) ∧
    decodeBytes (bytesOfWord w) = decode w) ∧
  (∀ r : ResponseWord, (bytesOfResponse r).length = 16 ∧
    (∀ t, t < 16 → (bytesOfResponse r)[t]? = some (BitVec.ofNat 8 (r.toNat / 256 ^ t))) ∧
    responseOfBytes (bytesOfResponse r) = some r) ∧
  (∀ bytes : List Byte, bytes.length ≠ 32 → ∃ e, decodeBytes bytes = .error e) ∧
  (∀ bytes : List Byte, bytes.length ≠ 16 → responseOfBytes bytes = none)

/-- R80: a command's mnemonic and written operands spell that command and no other. -/
def Obligations.AssemblingTheNotationGivesTheCommand : Prop :=
  ∀ (i : Instr) (mnemonic : String) (operands : List Nat),
    assemble mnemonic operands = some i ↔ mnemonic = i.mnemonic ∧ operands = operandsOf i

/-! ### The step, responses, faults, reset -/

/-- A step takes the oldest command word, and is `exec` of the command it decodes to, with the word consumed. -/
def Obligations.StepRunsDecodedCommand : Prop :=
  ∀ (s : State) (w : CommandWord) (rest : List HostInput) (i : Instr),
    s.cfg.wf = true → s.inbox = .command w :: rest → decode w = .ok i →
      step s = exec i { s with inbox := rest }

/-- R74: one response for every command word, legal or not; `cidx` advances by 1 (R22). -/
def Obligations.EveryWordIsAnsweredOnce : Prop :=
  ∀ (s : State) (w : CommandWord) (rest : List HostInput),
    s.Inv → s.inbox = .command w :: rest →
      ∃ t r, step s = .next t ∧ t.responses = s.responses ++ [r] ∧ t.cidx = s.cidx + 1 ∧ t.inbox = rest

/-- R75, whole: the format of responses, and that every response given has it. -/
def Obligations.ResponsesHaveTheFormat : Prop :=
  (∀ (st c : BitVec 8) (r : Word64), (responseWord st c r).toNat = st.toNat + c.toNat * 2 ^ 8 + r.toNat * 2 ^ 64) ∧
  (∀ v : Word64, responseSt (okWord v) = 0 ∧ responseCause (okWord v) = 0 ∧ responseResult (okWord v) = v) ∧
  (∀ c : BitVec 8, responseSt (faultWord c) = 1 ∧ responseCause (faultWord c) = c ∧ responseResult (faultWord c) = 0) ∧
  (∀ (s t : State) (w : CommandWord) (rest : List HostInput) (r : ResponseWord),
    s.Inv → s.inbox = .command w :: rest → step s = .next t → t.responses = s.responses ++ [r] →
      wellFormedResponse r ∧ (responseSt r = 1 ↔ t.fault = true) ∧ responseCause r = t.cause ∧
        ∀ i, decode w = .ok i → hasResult i = false → responseResult r = 0)

/-- R201, R60: queued commands are all answered, in order, none dropped. -/
def Obligations.QueuedCommandsAreAllAnswered : Prop :=
  ∀ (s : State) (ws : List CommandWord),
    s.Inv → s.inbox = ws.map HostInput.command →
      ∃ t : State, Host.Core.run core ws.length s = .next t ∧ t.Inv ∧ t.inbox = [] ∧
        t.cidx = s.cidx + ws.length ∧
        ∃ rs, t.responses = s.responses ++ rs ∧ rs.length = ws.length

/-- R174, whole: the fault is sticky, only reset clears it, and a faulted state ends no successful run (R202): no step leaves
it without a response that has `ST = 1`, nor does any run of words from the state after reset. -/
def Obligations.FaultIsSticky : Prop :=
  (∀ (s : State) (w : CommandWord) (rest : List HostInput),
    s.cfg.wf = true → s.inbox = .command w :: rest → s.fault = true →
      step s = .next { s with
        inbox := rest, responses := s.responses ++ [faultWord s.cause], cidx := s.cidx + 1 }) ∧
  (∀ (i : Instr) (s : State), s.fault = true →
    exec i s = .next { s with responses := s.responses ++ [faultWord s.cause], cidx := s.cidx + 1 }) ∧
  (∀ c : BitVec 8, responseSt (faultWord c) = 1 ∧ responseCause (faultWord c) = c ∧ responseResult (faultWord c) = 0) ∧
  (∀ s t : State, s.fault = true → step s = .next t → t.fault = false → ∃ rest, s.inbox = .reset :: rest) ∧
  (∀ (s : State) (rest : List HostInput), s.cfg.wf = true → s.inbox = .reset :: rest →
    ∃ t, step s = .next t ∧ t.fault = false) ∧
  (∀ s t : State, (s.fault = true → s.successful = false) → step s = .next t → t.fault = true → t.successful = false) ∧
  (∀ (cfg : Config) (ws : List CommandWord) (n : Nat) (t : State),
    Host.Core.run core n ((State.afterReset cfg).send ws) = .next t → t.fault = true → t.successful = false)

/-- R172, whole: a fault sets `FAULT` and `CAUSE`, answers, and changes nothing else. -/
def Obligations.FaultsArePrecise : Prop :=
  ∀ (s t : State) (w : CommandWord) (rest : List HostInput),
    s.fault = false → s.inbox = .command w :: rest → step s = .next t → t.fault = true →
      ∃ c : Cause, t = { s with
        inbox := rest, fault := true, cause := c.code,
        responses := s.responses ++ [faultWord c.code], cidx := s.cidx + 1 }

/-- R173: the codes of the causes; each command raises only the causes its row of the table names, and then changes nothing
else. -/
def Obligations.CommandsRaiseOnlyTheirCauses : Prop :=
  (Cause.illegal.code = 1 ∧ Cause.state.code = 2 ∧ Cause.align.code = 3 ∧ Cause.range.code = 4 ∧
    Cause.operand.code = 5) ∧
  ∀ (i : Instr) (s t : State), s.fault = false → exec i s = .next t → t.fault = true →
    ∃ c ∈ causesOf i, t = s.afterFault c

/-- R176 step 3: before NEW every other command raises STATE. -/
def Obligations.CommandsBeforeNewRaiseState : Prop :=
  ∀ (i : Instr) (s : State), s.fault = false → s.created = false → (∀ a b c, i ≠ .new a b c) →
    exec i s = .next (s.afterFault .state)

/-- R190, R36: what the reset input leaves. The fields R36 leaves unspecified are not stated; the configuration is not block
state, and what the host has yet to send stays sent (log entry 9: the model's choice). -/
def Obligations.ResetInputClearsFlags : Prop :=
  ∀ (s : State) (rest : List HostInput), s.cfg.wf = true → s.inbox = .reset :: rest →
    ∃ t, step s = .next t ∧ t.created = false ∧ t.sieveValid = false ∧ t.primed = false ∧ t.cntValid = false ∧
      t.fault = false ∧ t.cause = 0 ∧ t.cidx = 0 ∧ t.cfg = s.cfg ∧ t.inbox = rest

/-- R185: with nothing sent the block holds its state unchanged. -/
def Obligations.IdleBlockHoldsItsState : Prop :=
  ∀ s : State, s.cfg.wf = true → s.inbox = [] → step s = .next s

/-- 93_implementation_defined.md U7: a configuration that breaks a constraint of R6 is refused. U7 does not repeat the bounds
`MAX_WHEEL <= 2^32` and `PRIMES_LEN >= 5` of R6, and refusing in `step` is the model's form of it (log entry 11). -/
def Obligations.BadConfigurationIsRefused : Prop :=
  ∀ s : State,
    (s.cfg.maxBytes % 8 ≠ 0 ∨ s.cfg.maxBytes < 8 ∨ 2 ^ 32 ≤ s.cfg.maxBytes ∨ s.cfg.maxWheel < 4 ∨
      2 ^ 32 < s.cfg.maxWheel ∨ s.cfg.maxCnt ≠ 8 * s.cfg.maxBytes ∨ s.cfg.primesLen < 5) →
      step s = .refused .badConfiguration

/-! ### NEW -/

/-- R90: the checks of NEW, in order. -/
def Obligations.NewFaultsInOrder : Prop :=
  ∀ (a b c : Word64) (s : State), s.fault = false →
    (a.toNat % 30 ≠ 0 → exec (.new a b c) s = .next (s.afterFault .align)) ∧
    (a.toNat % 30 = 0 → b.toNat % 240 ≠ 0 → exec (.new a b c) s = .next (s.afterFault .align)) ∧
    (a.toNat % 30 = 0 → b.toNat % 240 = 0 → (b.toNat < 240 ∨ s.cfg.maxBytes < b.toNat / 30) →
      exec (.new a b c) s = .next (s.afterFault .range)) ∧
    (a.toNat % 30 = 0 → b.toNat % 240 = 0 → 240 ≤ b.toNat → b.toNat / 30 ≤ s.cfg.maxBytes →
      s.cfg.maxWheel < c.toNat → exec (.new a b c) s = .next (s.afterFault .range)) ∧
    (a.toNat % 30 = 0 → b.toNat % 240 = 0 → 240 ≤ b.toNat → b.toNat / 30 ≤ s.cfg.maxBytes →
      c.toNat ≤ s.cfg.maxWheel → 2 ^ 63 < a.toNat + b.toNat → exec (.new a b c) s = .next (s.afterFault .operand))

/-- R90: NEW's effect and frame. `WCAP` and `WCNT` are stated as the numbers they stand for (log entry 8). `CNTN`, which R90
leaves unspecified, is not stated; that no cell holds a value afterwards is the model's form of R90's "State left
unspecified" (log entries 5 and 7). -/
def Obligations.NewCreatesTheSieve : Prop :=
  ∀ (a b c : Word64) (s : State), s.cfg.wf = true → s.fault = false →
    a.toNat % 30 = 0 → b.toNat % 240 = 0 → 240 ≤ b.toNat → b.toNat / 30 ≤ s.cfg.maxBytes →
    c.toNat ≤ s.cfg.maxWheel → a.toNat + b.toNat ≤ 2 ^ 63 →
      ∃ t, exec (.new a b c) s = .next t ∧
        t.size.toNat = b.toNat / 30 ∧ t.wheelCapacity = max 4 c.toNat ∧ t.wheelCount = 4 ∧
        (∀ n, Store.read t.bytes n = none) ∧ (∀ n, Store.read t.wheel n = none) ∧ (∀ n, Store.read t.cnt n = none) ∧
        t = { s with
          created := true, sieveValid := false, primed := false, cntValid := false,
          start := a, size := t.size, wcap := t.wcap, wcnt := t.wcnt, cntn := t.cntn,
          bytes := t.bytes, wheel := t.wheel, cnt := t.cnt, freeIndex := t.freeIndex,
          responses := s.responses ++ [okWord 0], cidx := s.cidx + 1 }

/-- R91 (a): NEW discards the old sieve, wheel entries and counters, exactly as if run after reset. `CNTN`, which
the model leaves free, is not compared (log entry 6). -/
def Obligations.NewIsAsIfAfterReset : Prop :=
  ∀ (a b c : Word64) (s t : State), s.fault = false → exec (.new a b c) s = .next t → t.fault = false →
    ∃ u, exec (.new a b c) (State.afterReset s.cfg) = .next u ∧
      t = { u with
        cntn := t.cntn, freeIndex := t.freeIndex, inbox := t.inbox, responses := t.responses, cidx := t.cidx,
        cause := t.cause }

/-! ### SEGSZ and COUNT -/

/-- R94, whole: SEGSZ answers `30 * SIZE`, whatever SIZE is now, and changes nothing. -/
def Obligations.SegszAnswersSegmentSize : Prop :=
  encode .segsz = 0x02 ∧
  (∀ s : State, s.fault = false → s.created = true → exec .segsz s = .next (s.afterResult (30 * s.size.toNat))) ∧
  (∀ s : State, s.fault = false → s.created = false → exec .segsz s = .next (s.afterFault .state)) ∧
  (∀ s : State, (responseResult (okWord (BitVec.ofNat 64 (30 * s.size.toNat)))).toNat = 30 * s.size.toNat) ∧
  (∀ s : State, s.Inv → s.created = true →
    240 ∣ 30 * s.size.toNat ∧ 30 * s.size.toNat ≤ 30 * s.cfg.maxBytes ∧ 30 * s.cfg.maxBytes < 2 ^ 37)

/-- R96: the checks of COUNT, in order. -/
def Obligations.CountFaultsInOrder : Prop :=
  ∀ (a b : Word64) (s : State), s.fault = false → s.created = true →
    (s.sieveValid = false → exec (.count a b) s = .next (s.afterFault .state)) ∧
    (s.sieveValid = true → a.toNat ≤ b.toNat → 30 * s.size.toNat ≤ b.toNat →
      exec (.count a b) s = .next (s.afterFault .range))

/-- R96: COUNT answers the number of live positions whose offset lies in `[A, B]`, and changes nothing. -/
def Obligations.CountAnswersLiveInRange : Prop :=
  ∀ (a b : Word64) (s : State), s.Inv → s.fault = false → s.sieveValid = true →
    (b.toNat < a.toNat ∨ b.toNat < 30 * s.size.toNat) →
      ∃ n, exec (.count a b) s = .next (s.afterResult n) ∧ n < 2 ^ 64 ∧
        n = ((Finset.range (8 * s.size.toNat)).filter fun pos =>
          live s.bytes pos = true ∧ a.toNat ≤ offOf pos ∧ offOf pos ≤ b.toNat).card ∧
        (b.toNat < a.toNat → n = 0)

/-- R98 (a): counts of adjacent intervals add up. -/
def Obligations.CountIsAdditive : Prop :=
  ∀ (a b c : Word64) (s : State), s.Inv → s.fault = false → s.sieveValid = true →
    a.toNat ≤ b.toNat → b.toNat < c.toNat → c.toNat < 30 * s.size.toNat →
      ∃ x y, exec (.count a b) s = .next (s.afterResult x) ∧ exec (.count (b + 1) c) s = .next (s.afterResult y) ∧
        exec (.count a c) s = .next (s.afterResult (x + y)) ∧ x + y < 2 ^ 64

/-- R97, whole: `below` counts represented offsets, has the printed second term, and makes COUNT a range of positions. -/
def Obligations.CountIsARangeOfPositions : Prop :=
  (∀ n, below n = ((Finset.range n).filter fun m => m % 30 ∈ W).card) ∧
  (∀ first last pos, (first ≤ offOf pos ∧ offOf pos ≤ last) ↔ (below first ≤ pos ∧ pos < below (last + 1))) ∧
  (∀ (m : Memory) (size first last : Nat), first ≤ last → last < 30 * size →
    countLive m size first last = ∑ pos ∈ Finset.Ico (below first) (below (last + 1)), (live m pos).toNat) ∧
  (List.range 30).map below =
    [0, 0, 1, 1, 1, 1, 1, 1, 2, 2, 2, 2, 3, 3, 4, 4, 4, 4, 5, 5, 6, 6, 6, 6, 7, 7, 7, 7, 7, 7]

/-! ### PRESIEVE -/

/-- R100: the checks of PRESIEVE, in order, each failing one with those before it holding. -/
def Obligations.PresieveFaultsInOrder : Prop :=
  ∀ (c low high : Word64) (s : State), s.fault = false → s.created = true →
    (low.toNat % 30 ≠ 0 → exec (.presieve c low high) s = .next (s.afterFault .align)) ∧
    (low.toNat % 30 = 0 →
      (high.toNat ≤ low.toNat → exec (.presieve c low high) s = .next (s.afterFault .operand)) ∧
      (low.toNat < high.toNat → 2 ^ 63 < high.toNat → exec (.presieve c low high) s = .next (s.afterFault .operand)) ∧
      (low.toNat < high.toNat → high.toNat ≤ 2 ^ 63 →
        (30 * s.size.toNat < high.toNat - low.toNat →
          exec (.presieve c low high) s = .next (s.afterFault .range)) ∧
        (high.toNat - low.toNat ≤ 30 * s.size.toNat →
          (((s.primed = false ∧ low.toNat ≠ s.start.toNat) ∨
              (s.primed = true ∧ low.toNat ≠ s.start.toNat + 30 * s.size.toNat)) →
            exec (.presieve c low high) s = .next (s.afterFault .operand)) ∧
          (((s.primed = false ∧ low.toNat = s.start.toNat) ∨
              (s.primed = true ∧ low.toNat = s.start.toNat + 30 * s.size.toNat)) → 4 ≤ c.toNat →
            ((s.cfg.primesLen ≤ c.toNat ∨ s.wheelCapacity ≤ c.toNat) →
              exec (.presieve c low high) s = .next (s.afterFault .range)) ∧
            (c.toNat < s.cfg.primesLen → c.toNat < s.wheelCapacity →
              (∃ i p, 4 ≤ i ∧ i ≤ c.toNat ∧ s.cfg.primes[i]? = some p ∧
                (p < 7 ∨ 2 ^ 32 ≤ p ∨ p % 30 ∉ W ∨
                  (i < s.wheelCount ∧
                    ∃ e, Store.read s.wheel i = some e ∧ e.idx.toNat / 8 ≠ cls (p % 30)))) →
              exec (.presieve c low high) s = .next (s.afterFault .operand))))))

/-- R100, R101: when every check holds PRESIEVE completes; what it writes and what it leaves. That `cnt` and `CNTN` stay as
they were while `CNT_VALID = 0` is the model's choice (log entry 7; U6 lets them be any value). -/
def Obligations.PresieveOpensTheSegment : Prop :=
  ∀ (c low high : Word64) (s : State), s.Inv → s.fault = false → s.created = true →
    s.presievable c.toNat low.toNat high.toNat →
      ∃ t, exec (.presieve c low high) s = .next t ∧
        t.size.toNat = presieveSize (high.toNat - low.toNat) ∧
        t.wheelCount = (if c.toNat < 4 then s.wheelCount else max s.wheelCount (c.toNat + 1)) ∧
        (∀ a, (Store.read t.bytes a).isSome = true ↔ a < t.size.toNat) ∧
        (∀ pos, live t.bytes pos = true → low.toNat + offOf pos < high.toNat) ∧
        (∀ i, i < 4 ∨ c.toNat < i → Store.read t.wheel i = Store.read s.wheel i) ∧
        t = { s with
          sieveValid := true, primed := true, cntValid := false, start := low, size := t.size,
          bytes := t.bytes, wheel := t.wheel, wcnt := t.wcnt,
          responses := s.responses ++ [okWord 0], cidx := s.cidx + 1 }

/-- R106 (a): for `c < 4` the live bits are exactly the represented integers of `[low, high)`, and the wheel is untouched. -/
def Obligations.PresieveBelowFourCrossesNothing : Prop :=
  ∀ (c low high : Word64) (s : State), s.Inv → s.fault = false → s.created = true → c.toNat < 4 →
    s.presievable c.toNat low.toNat high.toNat →
      ∃ t, exec (.presieve c low high) s = .next t ∧ t.sievedBy high.toNat [] ∧
        t.wheel = s.wheel ∧ t.wcnt = s.wcnt ∧ exec (.presieve 0 low high) s = .next t

/-- R28, R100, R134 for PRESIEVE: if each of the entries `4 .. c` that is present tracks its prime from `low` on, whatever
the entries above `c` hold, the live bits are exactly the integers of `[low, high)` that none of `primes[4..c]` divides, and
each of the entries `4 .. c` is present and tracks its prime from the next segment on. -/
def Obligations.PresieveSievesExactly : Prop :=
  ∀ (c low high : Word64) (s : State), s.Inv → s.fault = false → s.created = true → 4 ≤ c.toNat →
    s.presievable c.toNat low.toNat high.toNat → s.wheelTracks c.toNat low.toNat →
      ∃ t, exec (.presieve c low high) s = .next t ∧
        t.sievedBy high.toNat ((s.cfg.primes.take (c.toNat + 1)).drop 4) ∧
        t.wheelCount = max s.wheelCount (c.toNat + 1) ∧
        ∀ i, 4 ≤ i → i ≤ c.toNat → ∃ e p, Store.read t.wheel i = some e ∧ s.cfg.primes[i]? = some p ∧
          tracks (low.toNat + 30 * t.size.toNat) e p

/-- R28 with the prime-table contract of R57 as premise: the live bits are exactly the integers of `[low, high)` that none of
the first `c` primes divides, whatever the entries above `c` hold. -/
def Obligations.PresieveLeavesIntegersCoprimeToFirstPrimes : Prop :=
  ∀ (c low high : Word64) (s : State), s.Inv → s.fault = false → s.created = true → primesContract s.cfg →
    4 ≤ c.toNat → s.presievable c.toNat low.toNat high.toNat → s.wheelTracks c.toNat low.toNat →
      ∃ t, exec (.presieve c low high) s = .next t ∧
        ∀ pos, pos < 8 * t.size.toNat →
          (live t.bytes pos = true ↔
            low.toNat + offOf pos < high.toNat ∧
              ∀ k, k < c.toNat → ¬ Nat.nth Nat.Prime k ∣ low.toNat + offOf pos)

/-- R103, whole: the new SIZE is the least multiple of 8 that covers `high - low`; SIZE never grows but by NEW; a full
segment is not shortened and loses no bit to the mask. -/
def Obligations.PresieveSizeIsLeast : Prop :=
  (∀ d, presieveSize d % 8 = 0 ∧ d ≤ 30 * presieveSize d ∧
    ∀ n, n % 8 = 0 → d ≤ 30 * n → presieveSize d ≤ n) ∧
  (∀ (c low high : Word64) (s t : State), s.fault = false → exec (.presieve c low high) s = .next t → t.fault = false →
    s.Inv → t.size.toNat = presieveSize (high.toNat - low.toNat)) ∧
  (∀ (i : Instr) (s t : State), s.Inv → (∀ a b c, i ≠ .new a b c) → exec i s = .next t → t.size.toNat ≤ s.size.toNat) ∧
  (∀ s : State, s.Inv → s.created = true → presieveSize (30 * s.size.toNat) = s.size.toNat ∧
    ∀ pos, pos < 8 * s.size.toNat → offOf pos < 30 * s.size.toNat)

/-- R105, whole: the mask clears exactly the positions at `d` and above; they lie in the last 64-bit word, whose remaining
bits are its lowest `below(d) - 64 * (SIZE/8 - 1)`. -/
def Obligations.PresieveMaskIsInTheLastWord : Prop :=
  (∀ (m : Memory) (size d pos : Nat), pos < 8 * size →
    live (maskTail m size d) pos = (live m pos && decide (offOf pos < d))) ∧
  (∀ d, 0 < d →
    30 * presieveSize d < d + 240 ∧ d ≤ 30 * presieveSize d ∧
    (∀ pos, pos < 8 * presieveSize d → d ≤ offOf pos → 64 * (presieveSize d / 8 - 1) ≤ pos) ∧
    ∀ m : Memory,
      memRead (maskTail (fillBytes m (presieveSize d)) (presieveSize d) d) (presieveSize d) (presieveSize d - 8) 8 =
        some (2 ^ (below d - 64 * (presieveSize d / 8 - 1)) - 1))

/-! ### The crossing machinery -/

/-- R122, R123, R124: the printed step tables and their sums. -/
def Obligations.StepTablesAreThePrintedOnes : Prop :=
  (List.range 8).map DF = [6, 4, 2, 4, 2, 4, 6, 2] ∧ ((List.range 8).map DF).sum = 30 ∧
  (List.range 8).map (fun c => (List.range 8).map (BITPOS c)) =
    [[0, 1, 2, 3, 4, 5, 6, 7], [1, 5, 4, 0, 7, 3, 2, 6], [2, 4, 0, 6, 1, 7, 3, 5], [3, 0, 6, 5, 2, 1, 7, 4],
     [4, 7, 1, 2, 5, 6, 0, 3], [5, 3, 7, 1, 6, 0, 4, 2], [6, 2, 3, 7, 0, 4, 5, 1], [7, 6, 5, 4, 3, 2, 1, 0]] ∧
  (∀ c ∈ List.range 8, ((List.range 8).map (BITPOS c)).Perm (List.range 8)) ∧
  (List.range 8).map (fun c => (List.range 8).map (DC c)) =
    [[0, 0, 0, 0, 0, 0, 0, 1], [1, 1, 1, 0, 1, 1, 1, 1], [2, 2, 0, 2, 0, 2, 2, 1], [3, 1, 1, 2, 1, 1, 3, 1],
     [3, 3, 1, 2, 1, 3, 3, 1], [4, 2, 2, 2, 2, 2, 4, 1], [5, 3, 1, 4, 1, 3, 5, 1], [6, 4, 2, 4, 2, 4, 6, 1]] ∧
  (∀ c ∈ List.range 8, ((List.range 8).map (DC c)).sum = residue c)

/-- R125, R121: a step goes from the position of `p * w` to that of the next multiple whose cofactor is coprime to 30. -/
def Obligations.CrossingStepReachesTheNextMultiple : Prop :=
  ∀ (p c j m w : Nat), c < 8 → j < 8 → p % 30 = residue c → w % 30 = residue j →
    p * w = 30 * m + (residue c * residue j) % 30 →
      (w + DF j) % 30 = residue ((j + 1) % 8) ∧
      p * (w + DF j) =
        30 * (m + p / 30 * DF j + DC c j) + (residue c * residue ((j + 1) % 8)) % 30 ∧
      (∀ w', w < w' → w' < w + DF j → ¬ Nat.Coprime w' 30) ∧
      offOf (8 * m + BITPOS c j) = p * w

/-- R126, R127: eight steps from any position come back to it and advance the byte offset by exactly `p`; each step follows
the state machine, whose 64 states keep their class and fall into 8-cycles. -/
def Obligations.CycleAdvancesByThePrime : Prop :=
  (∀ (p c j m : Nat), c < 8 → j < 8 → p % 30 = residue c → crossAt (p / 30) c m j 8 = (m + p, j)) ∧
  (∀ (k c j m n : Nat), j < 8 →
    8 * c + (crossAt k c m j (n + 1)).2 = nextWheelState (8 * c + (crossAt k c m j n).2)) ∧
  (∀ x, x < 64 → nextWheelState x < 64 ∧ nextWheelState x / 8 = x / 8 ∧ nextWheelState^[8] x = x ∧
    ∀ n, 0 < n → n < 8 → nextWheelState^[n] x ≠ x)

/-- R129, whole: the wheel-init tables are as derived and as printed. -/
def Obligations.WheelInitIsTheLeastFactor : Prop :=
  (∀ q, inW ((q + (wheelInit q).1) % 30) = true ∧ (∀ f, f < (wheelInit q).1 → inW ((q + f) % 30) = false) ∧
    (wheelInit q).2 = cls ((q + (wheelInit q).1) % 30)) ∧
  (List.range 30).map wheelInit =
    [(1, 0), (0, 0), (5, 1), (4, 1), (3, 1), (2, 1), (1, 1), (0, 1), (3, 2), (2, 2), (1, 2), (0, 2), (1, 3), (0, 3),
     (3, 4), (2, 4), (1, 4), (0, 4), (1, 5), (0, 5), (3, 6), (2, 6), (1, 6), (0, 6), (5, 7), (4, 7), (3, 7), (2, 7),
     (1, 7), (0, 7)] ∧
  W.map wheelOffsets = [0, 8, 16, 24, 32, 40, 48, 56] ∧ (∀ r ∈ W, wheelOffsets r = 8 * cls r) ∧
  (∀ r, r ∉ W → wheelOffsets r = 0)

/-- R128: a fresh entry names the smallest multiple of `p` above START whose cofactor is coprime to 30, in 32 bits. -/
def Obligations.AddWheelFindsTheFirstMultiple : Prop :=
  ∀ start p : Nat, start % 30 = 0 → 7 ≤ p → p < 2 ^ 32 → p % 30 ∈ W →
    ∃ w, namesMultiple start (freshEntry start p) p w ∧ start < p * w ∧
      (∀ w', Nat.Coprime w' 30 → start < p * w' → w ≤ w') ∧
      (freshEntry start p).off.toNat = (p * w - start) / 30 ∧ p * w ≤ start + 6 * p

/-- R203, R136: the crossing loop ends within `8 * SIZE + 8` steps, and what it carries over fits 32 bits. -/
def Obligations.CrossingLoopEnds : Prop :=
  ∀ (size p c cntn : Nat) (counted : Bool) (x : Crossing),
    7 ≤ p → c < 8 → p % 30 = residue c → x.j < 8 →
      size ≤ (crossLoop size (p / 30) c cntn counted (crossFuel size) x).m ∧
      (∀ fuel, crossFuel size ≤ fuel →
        crossLoop size (p / 30) c cntn counted fuel x = crossLoop size (p / 30) c cntn counted (crossFuel size) x) ∧
      (p < 2 ^ 32 → x.m < 2 ^ 32 →
        (crossLoop size (p / 30) c cntn counted (crossFuel size) x).m - size < 2 ^ 32)

/-! ### CROSSOFF -/

/-- R130: the checks of CROSSOFF, in order. -/
def Obligations.CrossoffFaultsInOrder : Prop :=
  ∀ (i p : Word64) (s : State), s.fault = false → s.created = true →
    (s.sieveValid = false → exec (.crossoff i p) s = .next (s.afterFault .state)) ∧
    (s.sieveValid = true →
      ((i.toNat < 4 ∨ s.wheelCount < i.toNat ∨ s.wheelCapacity ≤ i.toNat) →
        exec (.crossoff i p) s = .next (s.afterFault .range)) ∧
      (4 ≤ i.toNat → i.toNat ≤ s.wheelCount → i.toNat < s.wheelCapacity →
        ((p.toNat < 7 ∨ 2 ^ 32 ≤ p.toNat ∨ p.toNat % 30 ∉ W) →
          exec (.crossoff i p) s = .next (s.afterFault .operand)) ∧
        (7 ≤ p.toNat → p.toNat < 2 ^ 32 → p.toNat % 30 ∈ W → i.toNat < s.wheelCount →
          ∀ e, Store.read s.wheel i.toNat = some e → e.idx.toNat / 8 ≠ cls (p.toNat % 30) →
            exec (.crossoff i p) s = .next (s.afterFault .operand))))

/-- R130, R131, R133: when every check holds CROSSOFF completes; the answer is the number of bits that went from live to
dead; `CNT_VALID` is cleared; only its wheel entry, `WCNT` and bits of the segment change. That `cnt` and `CNTN` stay as they
were once `CNT_VALID` is cleared is the model's choice (log entry 7; U6 lets them be any value). -/
def Obligations.CrossoffCountsFirstTimeCrossings : Prop :=
  ∀ (i p : Word64) (s : State), s.Inv → s.fault = false → s.sieveValid = true → s.crossable i.toNat p.toNat →
    ∃ t, exec (.crossoff i p) s = .next t ∧
      (∀ pos, live t.bytes pos = true → live s.bytes pos = true) ∧
      (∀ a, (Store.read t.bytes a).isSome = (Store.read s.bytes a).isSome) ∧
      (∀ b, b ≠ i.toNat → Store.read t.wheel b = Store.read s.wheel b) ∧
      t.wheelCount = max s.wheelCount (i.toNat + 1) ∧
      died s.bytes t.bytes (8 * s.size.toNat) < 2 ^ 35 ∧
      t = { s with
        bytes := t.bytes, wheel := t.wheel, wcnt := t.wcnt, cntValid := false,
        responses := s.responses ++ [okWord (BitVec.ofNat 64 (died s.bytes t.bytes (8 * s.size.toNat)))],
        cidx := s.cidx + 1 }

/-- R125, R131, R132 for any entry that passes the checks, stale or not (U10): the bits that die are those at the positions
the steps visit while the offset is below SIZE; every other byte reads as before; the entry is left at the first offset at
or past SIZE, reduced by SIZE. -/
def Obligations.CrossoffVisitsItsPositions : Prop :=
  ∀ (i p : Word64) (s : State) (e : WheelEntry), s.Inv → s.fault = false → s.sieveValid = true →
    s.crossable i.toNat p.toNat → s.entryAt i.toNat p.toNat = some e →
      ∃ t, exec (.crossoff i p) s = .next t ∧
        (∀ pos, live t.bytes pos = true ↔
          live s.bytes pos = true ∧
            ∀ n, (crossAt (p.toNat / 30) (e.idx.toNat / 8) e.off.toNat (e.idx.toNat % 8) n).1 < s.size.toNat →
              pos ≠ 8 * (crossAt (p.toNat / 30) (e.idx.toNat / 8) e.off.toNat (e.idx.toNat % 8) n).1 +
                BITPOS (e.idx.toNat / 8) (crossAt (p.toNat / 30) (e.idx.toNat / 8) e.off.toNat (e.idx.toNat % 8) n).2) ∧
        (∀ a, (∀ n, (crossAt (p.toNat / 30) (e.idx.toNat / 8) e.off.toNat (e.idx.toNat % 8) n).1 < s.size.toNat →
            a ≠ (crossAt (p.toNat / 30) (e.idx.toNat / 8) e.off.toNat (e.idx.toNat % 8) n).1) →
          Store.read t.bytes a = Store.read s.bytes a) ∧
        ∃ n m j e', crossAt (p.toNat / 30) (e.idx.toNat / 8) e.off.toNat (e.idx.toNat % 8) n = (m, j) ∧
          s.size.toNat ≤ m ∧
          (∀ n', n' < n →
            (crossAt (p.toNat / 30) (e.idx.toNat / 8) e.off.toNat (e.idx.toNat % 8) n').1 < s.size.toNat) ∧
          Store.read t.wheel i.toNat = some e' ∧ e'.off.toNat = m - s.size.toNat ∧
          e'.idx.toNat = 8 * (e.idx.toNat / 8) + j

/-- R120, R28, R134: for a new entry, or one that tracks `p` from START on, CROSSOFF kills exactly the multiples of `p`, and
the entry then tracks `p` from the next segment on. -/
def Obligations.CrossoffRemovesExactlyTheMultiples : Prop :=
  ∀ (i p : Word64) (s : State), s.Inv → s.fault = false → s.sieveValid = true → s.crossable i.toNat p.toNat →
    (∀ e, i.toNat < s.wheelCount → Store.read s.wheel i.toNat = some e → tracks s.start.toNat e p.toNat) →
      ∃ t, exec (.crossoff i p) s = .next t ∧
        (∀ pos, pos < 8 * s.size.toNat →
          (live t.bytes pos = true ↔ live s.bytes pos = true ∧ ¬ p.toNat ∣ s.integerAt pos)) ∧
        ∃ e', Store.read t.wheel i.toNat = some e' ∧ tracks (s.start.toNat + 30 * s.size.toNat) e' p.toNat

/-! ### Unit F -/

/-- R152, R155, R157: the checks of CNTFINIT, CNTUNSET and CNTQUERY, in order. -/
def Obligations.CounterCommandsFaultInOrder : Prop :=
  ∀ (k : Word64) (s : State), s.fault = false → s.created = true →
    (s.sieveValid = false → exec .cntfinit s = .next (s.afterFault .state)) ∧
    ((s.sieveValid = false ∨ s.cntValid = false) → exec (.cntunset k) s = .next (s.afterFault .state)) ∧
    (s.sieveValid = true → s.cntValid = true → s.cntn.toNat ≤ k.toNat →
      exec (.cntunset k) s = .next (s.afterFault .range)) ∧
    (s.cntValid = false → exec (.cntquery k) s = .next (s.afterFault .state)) ∧
    (s.cntValid = true → s.cntn.toNat ≤ k.toNat → exec (.cntquery k) s = .next (s.afterFault .range))

/-- R152: CNTFINIT makes the tree consistent with the bits; its effect and frame. That counters at `CNTN` and above stay as
they were is the model's choice (log entry 7). -/
def Obligations.CntfinitBuildsTheTree : Prop :=
  ∀ s : State, s.Inv → s.fault = false → s.sieveValid = true →
    ∃ t, exec .cntfinit s = .next t ∧ t.cntn.toNat = 8 * s.size.toNat ∧ t.treeConsistent ∧
      (∀ j, 8 * s.size.toNat ≤ j → Store.read t.cnt j = Store.read s.cnt j) ∧
      t = { s with
        cntValid := true, cntn := t.cntn, cnt := t.cnt,
        responses := s.responses ++ [okWord 0], cidx := s.cidx + 1 }

/-- R154: `update(k)` decrements exactly the counters below CNTN that are responsible for `k`, at most `1 + log2(CNTN)` of
them. -/
def Obligations.UpdateDecrementsTheResponsibleCounters : Prop :=
  (∀ (cntn k j : Nat) (cnt : Store (BitVec 64)),
    Store.read (update cntn k cnt) j =
      if j < cntn ∧ lo j ≤ k ∧ k ≤ j then (Store.read cnt j).map (fun v => v - 1) else Store.read cnt j) ∧
  (∀ cntn k : Nat, k < cntn →
    ((Finset.range cntn).filter fun j => lo j ≤ k ∧ k ≤ j).card ≤ 1 + Nat.log2 cntn)

/-- R155: CNTUNSET kills the bit and decrements the responsible counters, or does nothing; its answer and frame. -/
def Obligations.CntunsetClearsAndDecrements : Prop :=
  ∀ (k : Word64) (s : State), s.Inv → s.fault = false → s.cntValid = true → k.toNat < s.cntn.toNat →
    (live s.bytes k.toNat = true → ∃ t, exec (.cntunset k) s = .next t ∧
      (∀ q, live t.bytes q = true ↔ live s.bytes q = true ∧ q ≠ k.toNat) ∧
      (∀ a, a ≠ k.toNat / 8 → Store.read t.bytes a = Store.read s.bytes a) ∧
      (∀ j, Store.read t.cnt j =
        if j < s.cntn.toNat ∧ lo j ≤ k.toNat ∧ k.toNat ≤ j then (Store.read s.cnt j).map (fun v => v - 1)
        else Store.read s.cnt j) ∧
      (s.treeConsistent → t.treeConsistent) ∧
      t = { s with
        bytes := t.bytes, cnt := t.cnt, responses := s.responses ++ [okWord 1], cidx := s.cidx + 1 }) ∧
    (live s.bytes k.toNat = false → exec (.cntunset k) s = .next (s.afterResult 0))

/-- R157: with a consistent tree CNTQUERY answers the number of live positions `<= k`, and changes nothing. -/
def Obligations.CntqueryAnswersThePrefixCount : Prop :=
  ∀ (k : Word64) (s : State), s.Inv → s.fault = false → s.cntValid = true → s.treeConsistent → k.toNat < s.cntn.toNat →
    exec (.cntquery k) s =
      .next (s.afterResult ((Finset.range (k.toNat + 1)).filter fun pos => live s.bytes pos = true).card)

/-- R157: `CNTQUERY k == COUNT 0, off(k)`. -/
def Obligations.CntqueryEqualsCount : Prop :=
  ∀ (k : Word64) (s : State), s.Inv → s.countersConsistent → s.fault = false → s.cntValid = true →
    k.toNat < s.cntn.toNat →
      ∃ v, exec (.cntquery k) s = .next (s.afterResult v) ∧
        exec (.count 0 (BitVec.ofNat 64 (offOf k.toNat))) s = .next (s.afterResult v)

/-- R159: the checks of CROSSOFFC, in order. -/
def Obligations.CrossoffcFaultsInOrder : Prop :=
  ∀ (i p : Word64) (s : State), s.fault = false → s.created = true →
    ((s.sieveValid = false ∨ s.cntValid = false) → exec (.crossoffc i p) s = .next (s.afterFault .state)) ∧
    (s.sieveValid = true → s.cntValid = true →
      ((i.toNat < 4 ∨ s.wheelCount < i.toNat ∨ s.wheelCapacity ≤ i.toNat) →
        exec (.crossoffc i p) s = .next (s.afterFault .range)) ∧
      (4 ≤ i.toNat → i.toNat ≤ s.wheelCount → i.toNat < s.wheelCapacity →
        ((p.toNat < 7 ∨ 2 ^ 32 ≤ p.toNat ∨ p.toNat % 30 ∉ W) →
          exec (.crossoffc i p) s = .next (s.afterFault .operand)) ∧
        (7 ≤ p.toNat → p.toNat < 2 ^ 32 → p.toNat % 30 ∈ W → i.toNat < s.wheelCount →
          ∀ e, Store.read s.wheel i.toNat = some e → e.idx.toNat / 8 ≠ cls (p.toNat % 30) →
            exec (.crossoffc i p) s = .next (s.afterFault .operand))))

/-- R159: CROSSOFFC does what CROSSOFF does to bits, wheel and answer, keeps `CNT_VALID`, keeps the tree consistent, and
lowers every query by the first-time crossings at positions up to it. -/
def Obligations.CrossoffcIsCrossoffWithCounters : Prop :=
  ∀ (i p : Word64) (s : State), s.Inv → s.fault = false → s.cntValid = true → s.crossable i.toNat p.toNat →
    ∃ t u, exec (.crossoffc i p) s = .next t ∧ exec (.crossoff i p) s = .next u ∧
      t = { u with cntValid := true, cnt := t.cnt } ∧
      (∀ j, s.cntn.toNat ≤ j → Store.read t.cnt j = Store.read s.cnt j) ∧
      (s.treeConsistent → t.treeConsistent ∧
        ∀ k, k < s.cntn.toNat → query t.cnt k + died s.bytes t.bytes (k + 1) = query s.cnt k)

/-! ### Memory -/

/-- R53, whole: the one-byte and eight-byte views of one memory, little-endian, and their requirements. -/
def Obligations.ByteAndWordViewsAgree : Prop :=
  (∀ (m : Memory) (size addr : Nat), addr + 1 ≤ size →
    memRead m size addr 1 = (Store.read m addr).map BitVec.toNat) ∧
  (∀ (m : Memory) (size addr v : Nat), addr + 8 ≤ size → addr % 8 = 0 →
    (memRead m size addr 8 = some v ↔
      ∃ f : Nat → Byte, (∀ t, t < 8 → Store.read m (addr + t) = some (f t)) ∧
        v = ∑ t ∈ Finset.range 8, (f t).toNat * 2 ^ (8 * t))) ∧
  (∀ (m : Memory) (size addr n v : Nat), size < addr + n ∨ (n = 8 ∧ addr % 8 ≠ 0) →
    memRead m size addr n = none ∧ memWrite m size addr n v = none) ∧
  (∀ (m : Memory) (size addr n v : Nat), addr + n ≤ size → (n = 1 ∨ (n = 8 ∧ addr % 8 = 0)) → v < 2 ^ (8 * n) →
    ∃ m', memWrite m size addr n v = some m' ∧ memRead m' size addr n = some v ∧
      (∀ t, t < n → memRead m' size (addr + t) 1 = some (v / 256 ^ t % 256)) ∧
      (∀ a, a < addr ∨ addr + n ≤ a → Store.read m' a = Store.read m a)) ∧
  (∀ (m m' : Memory) (size addr a b v : Nat), addr ≤ a → a < addr + 8 → b < 256 →
    memWrite m size a 1 b = some m' → memRead m' size addr 8 = some v → v / 256 ^ (a - addr) % 256 = b)

/-! ### Rules of the whole machine -/

/-- The invariant of Safety.lean, which collects R22 to R31, is kept by every step. -/
def Obligations.StepKeepsTheInvariant : Prop :=
  ∀ s t : State, s.Inv → step s = .next t → t.Inv

/-- The invariant holds right after reset, whatever the configuration. It rests on the model's reset values only where
`CREATED` guards them (log entry 4). -/
def Obligations.ResetMeetsTheInvariant : Prop :=
  (∀ cfg : Config, cfg.wf = true → (State.afterReset cfg).Inv ∧ (State.afterReset cfg).countersConsistent) ∧
  State.reset.Inv

/-- R160 (e), R32: `CNT_VALID = 1` implies that the tree is consistent with the bits, after every step. -/
def Obligations.StepKeepsCountersConsistent : Prop :=
  ∀ s t : State, s.Inv → s.countersConsistent → step s = .next t → t.countersConsistent

/-- R23: no command writes a flag but those the table names for it, nor to another value. -/
def Obligations.FlagsChangeOnlyAsListed : Prop :=
  ∀ (i : Instr) (s t : State), exec i s = .next t →
    (t.created ≠ s.created → t.created = true ∧ i.mnemonic = "NEW") ∧
    (t.sieveValid ≠ s.sieveValid →
      (t.sieveValid = true ∧ i.mnemonic = "PRESIEVE") ∨ (t.sieveValid = false ∧ i.mnemonic = "NEW")) ∧
    (t.primed ≠ s.primed →
      (t.primed = true ∧ i.mnemonic = "PRESIEVE") ∨ (t.primed = false ∧ i.mnemonic = "NEW")) ∧
    (t.cntValid ≠ s.cntValid →
      (t.cntValid = true ∧ i.mnemonic = "CNTFINIT") ∨
      (t.cntValid = false ∧ i.mnemonic ∈ ["NEW", "PRESIEVE", "CROSSOFF"])) ∧
    (t.fault ≠ s.fault → t.fault = true) ∧
    (t.cause ≠ s.cause → s.fault = false ∧ t.fault = true)

/-- R27: between two PRESIEVEs bits only go from 1 to 0, and the segment stays where it is. -/
def Obligations.BitsOnlyDieBetweenPresieves : Prop :=
  ∀ (i : Instr) (s t : State), exec i s = .next t → (∀ a b c, i ≠ .new a b c) → (∀ a b c, i ≠ .presieve a b c) →
    t.size = s.size ∧ t.start = s.start ∧ ∀ pos, live t.bytes pos = true → live s.bytes pos = true

/-- R56: COUNT, SEGSZ and CNTQUERY change no state: what they leave is the state before with one response more and `cidx`
advanced, or that with a fault they may raise, or the sticky answer. -/
def Obligations.ReadingCommandsChangeNothing : Prop :=
  ∀ (i : Instr) (s t : State), exec i s = .next t →
    ((∃ a b, i = .count a b) ∨ i = .segsz ∨ ∃ k, i = .cntquery k) →
      (s.fault = false ∧ ∃ v, t = { s with responses := s.responses ++ [okWord v], cidx := s.cidx + 1 }) ∨
      (s.fault = false ∧ ∃ c ∈ causesOf i, t = { s with
        fault := true, cause := c.code, responses := s.responses ++ [faultWord c.code], cidx := s.cidx + 1 }) ∨
      (s.fault = true ∧ t = { s with responses := s.responses ++ [faultWord s.cause], cidx := s.cidx + 1 })

/-- R15, R57: no step changes the configuration, the prime table with it. -/
def Obligations.NoStepChangesTheConfiguration : Prop :=
  ∀ s t : State, step s = .next t → t.cfg = s.cfg

/-- R101 step 7, for every state that passes the checks, stale entries and entries above `c` included (U10): PRESIEVE `c`
leaves what PRESIEVE 3 followed by the commands `CROSSOFF i, primes[i]` for `i` in `4 .. c` leaves, but that it answers
once. -/
def Obligations.PresieveIsPresieveThreeThenCrossoffs : Prop :=
  ∀ (c low high : Word64) (s : State), s.Inv → s.fault = false → s.created = true →
    s.presievable c.toNat low.toNat high.toNat →
      ∃ t u v, exec (.presieve c low high) s = .next t ∧ exec (.presieve 3 low high) s = .next u ∧ u.fault = false ∧
        State.crossoffEach (sievingIndices c.toNat) u = some v ∧
        t = { v with responses := s.responses ++ [okWord 0], cidx := s.cidx + 1 }
end

