-- ==== Sys2Proof/Laws/Encoding.lean ====
section
/-! SUPPORT. The fields of command and response words are where the formats say. -/

namespace Sys2Proof

/-- The fields of a word built from fields are those fields (R71). -/
@[simp] theorem fieldsOf_wordOf (f : CommandFields) : fieldsOf (wordOf f) = f := by
  obtain ⟨op, rsv, a, b, c⟩ := f
  simp only [fieldsOf, wordOf, CommandFields.mk.injEq]
  refine ⟨?_, ?_, ?_, ?_, ?_⟩
  all_goals
    apply BitVec.eq_of_getLsbD_eq
    intro i hi
    simp only [BitVec.getLsbD_extractLsb', BitVec.getLsbD_append, hi, decide_true, Bool.true_and]
  · rw [if_pos (by omega), Nat.zero_add]
  · rw [if_neg (by omega), if_pos (by omega), show 8 + i - 8 = i by omega]
  · rw [if_neg (by omega), if_neg (by omega), if_pos (by omega), show 64 + i - 8 - 56 = i by omega]
  · rw [if_neg (by omega), if_neg (by omega), if_neg (by omega), if_pos (by omega),
      show 128 + i - 8 - 56 - 64 = i by omega]
  · rw [if_neg (by omega), if_neg (by omega), if_neg (by omega), if_neg (by omega),
      show 192 + i - 8 - 56 - 64 - 64 = i by omega]

/-- A word is rebuilt from its fields (R71). -/
@[simp] theorem wordOf_fieldsOf (w : CommandWord) : wordOf (fieldsOf w) = w := by
  simp only [wordOf, fieldsOf]
  apply BitVec.eq_of_getLsbD_eq
  intro i hi
  simp only [BitVec.getLsbD_extractLsb', BitVec.getLsbD_append]
  repeat' split
  · rw [decide_eq_true ‹_›, Nat.zero_add, Bool.true_and]
  · rw [decide_eq_true ‹_›, Bool.true_and, show 8 + (i - 8) = i by omega]
  · rw [decide_eq_true ‹_›, Bool.true_and, show 64 + (i - 8 - 56) = i by omega]
  · rw [decide_eq_true ‹_›, Bool.true_and, show 128 + (i - 8 - 56 - 64) = i by omega]
  · rw [decide_eq_true (by omega), Bool.true_and, show 192 + (i - 8 - 56 - 64 - 64) = i by omega]

/-- How many bytes a serialised word has (R52). -/
@[simp] theorem length_serialise {bits : Nat} (count : Nat) (w : BitVec bits) : (serialise count w).length = count := by
  simp [serialise]

/-- Byte `t` of a serialised word is the word's bits from `8 * t` up (R52). -/
theorem getElem?_serialise {bits : Nat} {count t : Nat} (w : BitVec bits) (h : t < count) :
    (serialise count w)[t]? = some (w.extractLsb' (8 * t) 8) := by
  simp [serialise, h]

namespace Machine

/-- `ST` of a built response (R75). -/
@[simp] theorem responseSt_responseWord (st c : BitVec 8) (r : Word64) : responseSt (responseWord st c r) = st := by
  apply BitVec.eq_of_getLsbD_eq
  intro i hi
  simp only [responseSt, responseWord, BitVec.getLsbD_extractLsb', BitVec.getLsbD_append, hi, decide_true, Bool.true_and]
  rw [if_pos (by omega), Nat.zero_add]

/-- `CAUSE` of a built response (R75). -/
@[simp] theorem responseCause_responseWord (st c : BitVec 8) (r : Word64) : responseCause (responseWord st c r) = c := by
  apply BitVec.eq_of_getLsbD_eq
  intro i hi
  simp only [responseCause, responseWord, BitVec.getLsbD_extractLsb', BitVec.getLsbD_append, hi, decide_true, Bool.true_and]
  rw [if_neg (by omega), if_pos (by omega), show 8 + i - 8 = i by omega]

/-- `R` of a built response (R75). -/
@[simp] theorem responseResult_responseWord (st c : BitVec 8) (r : Word64) :
    responseResult (responseWord st c r) = r := by
  apply BitVec.eq_of_getLsbD_eq
  intro i hi
  simp only [responseResult, responseWord, BitVec.getLsbD_extractLsb', BitVec.getLsbD_append, hi, decide_true, Bool.true_and]
  rw [if_neg (by omega), if_neg (by omega), if_neg (by omega), show 64 + i - 8 - 8 - 48 = i by omega]

/-- Bits 63:16 of a built response are 0 (R75). -/
@[simp] theorem responseZero_responseWord (st c : BitVec 8) (r : Word64) :
    (responseWord st c r).extractLsb' 16 48 = 0 := by
  apply BitVec.eq_of_getLsbD_eq
  intro i hi
  simp only [responseWord, BitVec.getLsbD_extractLsb', BitVec.getLsbD_append, hi, decide_true, Bool.true_and]
  rw [if_neg (by omega), if_neg (by omega), if_pos (by omega)]; simp

end Machine

end Sys2Proof
end

