-- ==== Sys2Proof/Laws/State.lean ====
section
/-! SUPPORT. One lemma per field of State per named update, each true by rfl. -/

namespace Sys2Proof.Machine

variable (s : State)

/-! ### `State.answer` -/

@[simp] theorem State.answer_created (w : ResponseWord) : (s.answer w).created = s.created := rfl
@[simp] theorem State.answer_fault (w : ResponseWord) : (s.answer w).fault = s.fault := rfl
@[simp] theorem State.answer_cause (w : ResponseWord) : (s.answer w).cause = s.cause := rfl
@[simp] theorem State.answer_sieveValid (w : ResponseWord) : (s.answer w).sieveValid = s.sieveValid := rfl
@[simp] theorem State.answer_cntValid (w : ResponseWord) : (s.answer w).cntValid = s.cntValid := rfl
@[simp] theorem State.answer_primed (w : ResponseWord) : (s.answer w).primed = s.primed := rfl
@[simp] theorem State.answer_start (w : ResponseWord) : (s.answer w).start = s.start := rfl
@[simp] theorem State.answer_size (w : ResponseWord) : (s.answer w).size = s.size := rfl
@[simp] theorem State.answer_wcap (w : ResponseWord) : (s.answer w).wcap = s.wcap := rfl
@[simp] theorem State.answer_wcnt (w : ResponseWord) : (s.answer w).wcnt = s.wcnt := rfl
@[simp] theorem State.answer_cntn (w : ResponseWord) : (s.answer w).cntn = s.cntn := rfl
@[simp] theorem State.answer_bytes (w : ResponseWord) : (s.answer w).bytes = s.bytes := rfl
@[simp] theorem State.answer_wheel (w : ResponseWord) : (s.answer w).wheel = s.wheel := rfl
@[simp] theorem State.answer_cnt (w : ResponseWord) : (s.answer w).cnt = s.cnt := rfl
@[simp] theorem State.answer_cidx (w : ResponseWord) : (s.answer w).cidx = s.cidx + 1 := rfl
@[simp] theorem State.answer_responses (w : ResponseWord) : (s.answer w).responses = s.responses ++ [w] := rfl
@[simp] theorem State.answer_cfg (w : ResponseWord) : (s.answer w).cfg = s.cfg := rfl
@[simp] theorem State.answer_inbox (w : ResponseWord) : (s.answer w).inbox = s.inbox := rfl
@[simp] theorem State.answer_freeIndex (w : ResponseWord) : (s.answer w).freeIndex = s.freeIndex := rfl

/-! ### `State.respond` -/

@[simp] theorem State.respond_created (v : Nat) : (s.respond v).created = s.created := rfl
@[simp] theorem State.respond_fault (v : Nat) : (s.respond v).fault = s.fault := rfl
@[simp] theorem State.respond_cause (v : Nat) : (s.respond v).cause = s.cause := rfl
@[simp] theorem State.respond_sieveValid (v : Nat) : (s.respond v).sieveValid = s.sieveValid := rfl
@[simp] theorem State.respond_cntValid (v : Nat) : (s.respond v).cntValid = s.cntValid := rfl
@[simp] theorem State.respond_primed (v : Nat) : (s.respond v).primed = s.primed := rfl
@[simp] theorem State.respond_start (v : Nat) : (s.respond v).start = s.start := rfl
@[simp] theorem State.respond_size (v : Nat) : (s.respond v).size = s.size := rfl
@[simp] theorem State.respond_wcap (v : Nat) : (s.respond v).wcap = s.wcap := rfl
@[simp] theorem State.respond_wcnt (v : Nat) : (s.respond v).wcnt = s.wcnt := rfl
@[simp] theorem State.respond_cntn (v : Nat) : (s.respond v).cntn = s.cntn := rfl
@[simp] theorem State.respond_bytes (v : Nat) : (s.respond v).bytes = s.bytes := rfl
@[simp] theorem State.respond_wheel (v : Nat) : (s.respond v).wheel = s.wheel := rfl
@[simp] theorem State.respond_cnt (v : Nat) : (s.respond v).cnt = s.cnt := rfl
@[simp] theorem State.respond_cidx (v : Nat) : (s.respond v).cidx = s.cidx + 1 := rfl
@[simp] theorem State.respond_responses (v : Nat) :
    (s.respond v).responses =
      s.responses ++ [okWord (BitVec.ofNat 64 v)] := rfl
@[simp] theorem State.respond_cfg (v : Nat) : (s.respond v).cfg = s.cfg := rfl
@[simp] theorem State.respond_inbox (v : Nat) : (s.respond v).inbox = s.inbox := rfl
@[simp] theorem State.respond_freeIndex (v : Nat) : (s.respond v).freeIndex = s.freeIndex := rfl

/-! ### `State.raiseFault` -/

@[simp] theorem State.raiseFault_created (c : Cause) : (s.raiseFault c).created = s.created := rfl
@[simp] theorem State.raiseFault_fault (c : Cause) : (s.raiseFault c).fault = true := rfl
@[simp] theorem State.raiseFault_cause (c : Cause) : (s.raiseFault c).cause = c.code := rfl
@[simp] theorem State.raiseFault_sieveValid (c : Cause) : (s.raiseFault c).sieveValid = s.sieveValid := rfl
@[simp] theorem State.raiseFault_cntValid (c : Cause) : (s.raiseFault c).cntValid = s.cntValid := rfl
@[simp] theorem State.raiseFault_primed (c : Cause) : (s.raiseFault c).primed = s.primed := rfl
@[simp] theorem State.raiseFault_start (c : Cause) : (s.raiseFault c).start = s.start := rfl
@[simp] theorem State.raiseFault_size (c : Cause) : (s.raiseFault c).size = s.size := rfl
@[simp] theorem State.raiseFault_wcap (c : Cause) : (s.raiseFault c).wcap = s.wcap := rfl
@[simp] theorem State.raiseFault_wcnt (c : Cause) : (s.raiseFault c).wcnt = s.wcnt := rfl
@[simp] theorem State.raiseFault_cntn (c : Cause) : (s.raiseFault c).cntn = s.cntn := rfl
@[simp] theorem State.raiseFault_bytes (c : Cause) : (s.raiseFault c).bytes = s.bytes := rfl
@[simp] theorem State.raiseFault_wheel (c : Cause) : (s.raiseFault c).wheel = s.wheel := rfl
@[simp] theorem State.raiseFault_cnt (c : Cause) : (s.raiseFault c).cnt = s.cnt := rfl
@[simp] theorem State.raiseFault_cidx (c : Cause) : (s.raiseFault c).cidx = s.cidx + 1 := rfl
@[simp] theorem State.raiseFault_responses (c : Cause) :
    (s.raiseFault c).responses =
      s.responses ++ [faultWord c.code] := rfl
@[simp] theorem State.raiseFault_cfg (c : Cause) : (s.raiseFault c).cfg = s.cfg := rfl
@[simp] theorem State.raiseFault_inbox (c : Cause) : (s.raiseFault c).inbox = s.inbox := rfl
@[simp] theorem State.raiseFault_freeIndex (c : Cause) : (s.raiseFault c).freeIndex = s.freeIndex := rfl

/-! ### `State.stickyAnswer` -/

@[simp] theorem State.stickyAnswer_created : (s.stickyAnswer).created = s.created := rfl
@[simp] theorem State.stickyAnswer_fault : (s.stickyAnswer).fault = s.fault := rfl
@[simp] theorem State.stickyAnswer_cause : (s.stickyAnswer).cause = s.cause := rfl
@[simp] theorem State.stickyAnswer_sieveValid : (s.stickyAnswer).sieveValid = s.sieveValid := rfl
@[simp] theorem State.stickyAnswer_cntValid : (s.stickyAnswer).cntValid = s.cntValid := rfl
@[simp] theorem State.stickyAnswer_primed : (s.stickyAnswer).primed = s.primed := rfl
@[simp] theorem State.stickyAnswer_start : (s.stickyAnswer).start = s.start := rfl
@[simp] theorem State.stickyAnswer_size : (s.stickyAnswer).size = s.size := rfl
@[simp] theorem State.stickyAnswer_wcap : (s.stickyAnswer).wcap = s.wcap := rfl
@[simp] theorem State.stickyAnswer_wcnt : (s.stickyAnswer).wcnt = s.wcnt := rfl
@[simp] theorem State.stickyAnswer_cntn : (s.stickyAnswer).cntn = s.cntn := rfl
@[simp] theorem State.stickyAnswer_bytes : (s.stickyAnswer).bytes = s.bytes := rfl
@[simp] theorem State.stickyAnswer_wheel : (s.stickyAnswer).wheel = s.wheel := rfl
@[simp] theorem State.stickyAnswer_cnt : (s.stickyAnswer).cnt = s.cnt := rfl
@[simp] theorem State.stickyAnswer_cidx : (s.stickyAnswer).cidx = s.cidx + 1 := rfl
@[simp] theorem State.stickyAnswer_responses : (s.stickyAnswer).responses = s.responses ++ [faultWord s.cause] := rfl
@[simp] theorem State.stickyAnswer_cfg : (s.stickyAnswer).cfg = s.cfg := rfl
@[simp] theorem State.stickyAnswer_inbox : (s.stickyAnswer).inbox = s.inbox := rfl
@[simp] theorem State.stickyAnswer_freeIndex : (s.stickyAnswer).freeIndex = s.freeIndex := rfl

/-! ### `State.flagsOfNew` -/

@[simp] theorem State.flagsOfNew_created : (s.flagsOfNew).created = true := rfl
@[simp] theorem State.flagsOfNew_fault : (s.flagsOfNew).fault = s.fault := rfl
@[simp] theorem State.flagsOfNew_cause : (s.flagsOfNew).cause = s.cause := rfl
@[simp] theorem State.flagsOfNew_sieveValid : (s.flagsOfNew).sieveValid = false := rfl
@[simp] theorem State.flagsOfNew_cntValid : (s.flagsOfNew).cntValid = false := rfl
@[simp] theorem State.flagsOfNew_primed : (s.flagsOfNew).primed = false := rfl
@[simp] theorem State.flagsOfNew_start : (s.flagsOfNew).start = s.start := rfl
@[simp] theorem State.flagsOfNew_size : (s.flagsOfNew).size = s.size := rfl
@[simp] theorem State.flagsOfNew_wcap : (s.flagsOfNew).wcap = s.wcap := rfl
@[simp] theorem State.flagsOfNew_wcnt : (s.flagsOfNew).wcnt = s.wcnt := rfl
@[simp] theorem State.flagsOfNew_cntn : (s.flagsOfNew).cntn = s.cntn := rfl
@[simp] theorem State.flagsOfNew_bytes : (s.flagsOfNew).bytes = s.bytes := rfl
@[simp] theorem State.flagsOfNew_wheel : (s.flagsOfNew).wheel = s.wheel := rfl
@[simp] theorem State.flagsOfNew_cnt : (s.flagsOfNew).cnt = s.cnt := rfl
@[simp] theorem State.flagsOfNew_cidx : (s.flagsOfNew).cidx = s.cidx := rfl
@[simp] theorem State.flagsOfNew_responses : (s.flagsOfNew).responses = s.responses := rfl
@[simp] theorem State.flagsOfNew_cfg : (s.flagsOfNew).cfg = s.cfg := rfl
@[simp] theorem State.flagsOfNew_inbox : (s.flagsOfNew).inbox = s.inbox := rfl
@[simp] theorem State.flagsOfNew_freeIndex : (s.flagsOfNew).freeIndex = s.freeIndex := rfl

/-! ### `State.flagsOfPresieve` -/

@[simp] theorem State.flagsOfPresieve_created : (s.flagsOfPresieve).created = s.created := rfl
@[simp] theorem State.flagsOfPresieve_fault : (s.flagsOfPresieve).fault = s.fault := rfl
@[simp] theorem State.flagsOfPresieve_cause : (s.flagsOfPresieve).cause = s.cause := rfl
@[simp] theorem State.flagsOfPresieve_sieveValid : (s.flagsOfPresieve).sieveValid = true := rfl
@[simp] theorem State.flagsOfPresieve_cntValid : (s.flagsOfPresieve).cntValid = false := rfl
@[simp] theorem State.flagsOfPresieve_primed : (s.flagsOfPresieve).primed = true := rfl
@[simp] theorem State.flagsOfPresieve_start : (s.flagsOfPresieve).start = s.start := rfl
@[simp] theorem State.flagsOfPresieve_size : (s.flagsOfPresieve).size = s.size := rfl
@[simp] theorem State.flagsOfPresieve_wcap : (s.flagsOfPresieve).wcap = s.wcap := rfl
@[simp] theorem State.flagsOfPresieve_wcnt : (s.flagsOfPresieve).wcnt = s.wcnt := rfl
@[simp] theorem State.flagsOfPresieve_cntn : (s.flagsOfPresieve).cntn = s.cntn := rfl
@[simp] theorem State.flagsOfPresieve_bytes : (s.flagsOfPresieve).bytes = s.bytes := rfl
@[simp] theorem State.flagsOfPresieve_wheel : (s.flagsOfPresieve).wheel = s.wheel := rfl
@[simp] theorem State.flagsOfPresieve_cnt : (s.flagsOfPresieve).cnt = s.cnt := rfl
@[simp] theorem State.flagsOfPresieve_cidx : (s.flagsOfPresieve).cidx = s.cidx := rfl
@[simp] theorem State.flagsOfPresieve_responses : (s.flagsOfPresieve).responses = s.responses := rfl
@[simp] theorem State.flagsOfPresieve_cfg : (s.flagsOfPresieve).cfg = s.cfg := rfl
@[simp] theorem State.flagsOfPresieve_inbox : (s.flagsOfPresieve).inbox = s.inbox := rfl
@[simp] theorem State.flagsOfPresieve_freeIndex : (s.flagsOfPresieve).freeIndex = s.freeIndex := rfl

/-! ### `State.invalidateCounters` -/

@[simp] theorem State.invalidateCounters_created : (s.invalidateCounters).created = s.created := rfl
@[simp] theorem State.invalidateCounters_fault : (s.invalidateCounters).fault = s.fault := rfl
@[simp] theorem State.invalidateCounters_cause : (s.invalidateCounters).cause = s.cause := rfl
@[simp] theorem State.invalidateCounters_sieveValid : (s.invalidateCounters).sieveValid = s.sieveValid := rfl
@[simp] theorem State.invalidateCounters_cntValid : (s.invalidateCounters).cntValid = false := rfl
@[simp] theorem State.invalidateCounters_primed : (s.invalidateCounters).primed = s.primed := rfl
@[simp] theorem State.invalidateCounters_start : (s.invalidateCounters).start = s.start := rfl
@[simp] theorem State.invalidateCounters_size : (s.invalidateCounters).size = s.size := rfl
@[simp] theorem State.invalidateCounters_wcap : (s.invalidateCounters).wcap = s.wcap := rfl
@[simp] theorem State.invalidateCounters_wcnt : (s.invalidateCounters).wcnt = s.wcnt := rfl
@[simp] theorem State.invalidateCounters_cntn : (s.invalidateCounters).cntn = s.cntn := rfl
@[simp] theorem State.invalidateCounters_bytes : (s.invalidateCounters).bytes = s.bytes := rfl
@[simp] theorem State.invalidateCounters_wheel : (s.invalidateCounters).wheel = s.wheel := rfl
@[simp] theorem State.invalidateCounters_cnt : (s.invalidateCounters).cnt = s.cnt := rfl
@[simp] theorem State.invalidateCounters_cidx : (s.invalidateCounters).cidx = s.cidx := rfl
@[simp] theorem State.invalidateCounters_responses : (s.invalidateCounters).responses = s.responses := rfl
@[simp] theorem State.invalidateCounters_cfg : (s.invalidateCounters).cfg = s.cfg := rfl
@[simp] theorem State.invalidateCounters_inbox : (s.invalidateCounters).inbox = s.inbox := rfl
@[simp] theorem State.invalidateCounters_freeIndex : (s.invalidateCounters).freeIndex = s.freeIndex := rfl

/-! ### `State.validateCounters` -/

@[simp] theorem State.validateCounters_created : (s.validateCounters).created = s.created := rfl
@[simp] theorem State.validateCounters_fault : (s.validateCounters).fault = s.fault := rfl
@[simp] theorem State.validateCounters_cause : (s.validateCounters).cause = s.cause := rfl
@[simp] theorem State.validateCounters_sieveValid : (s.validateCounters).sieveValid = s.sieveValid := rfl
@[simp] theorem State.validateCounters_cntValid : (s.validateCounters).cntValid = true := rfl
@[simp] theorem State.validateCounters_primed : (s.validateCounters).primed = s.primed := rfl
@[simp] theorem State.validateCounters_start : (s.validateCounters).start = s.start := rfl
@[simp] theorem State.validateCounters_size : (s.validateCounters).size = s.size := rfl
@[simp] theorem State.validateCounters_wcap : (s.validateCounters).wcap = s.wcap := rfl
@[simp] theorem State.validateCounters_wcnt : (s.validateCounters).wcnt = s.wcnt := rfl
@[simp] theorem State.validateCounters_cntn : (s.validateCounters).cntn = s.cntn := rfl
@[simp] theorem State.validateCounters_bytes : (s.validateCounters).bytes = s.bytes := rfl
@[simp] theorem State.validateCounters_wheel : (s.validateCounters).wheel = s.wheel := rfl
@[simp] theorem State.validateCounters_cnt : (s.validateCounters).cnt = s.cnt := rfl
@[simp] theorem State.validateCounters_cidx : (s.validateCounters).cidx = s.cidx := rfl
@[simp] theorem State.validateCounters_responses : (s.validateCounters).responses = s.responses := rfl
@[simp] theorem State.validateCounters_cfg : (s.validateCounters).cfg = s.cfg := rfl
@[simp] theorem State.validateCounters_inbox : (s.validateCounters).inbox = s.inbox := rfl
@[simp] theorem State.validateCounters_freeIndex : (s.validateCounters).freeIndex = s.freeIndex := rfl

/-! ### `State.newSieve` -/

@[simp] theorem State.newSieve_created (a b k : Nat) : (s.newSieve a b k).created = true := rfl
@[simp] theorem State.newSieve_fault (a b k : Nat) : (s.newSieve a b k).fault = s.fault := rfl
@[simp] theorem State.newSieve_cause (a b k : Nat) : (s.newSieve a b k).cause = s.cause := rfl
@[simp] theorem State.newSieve_sieveValid (a b k : Nat) : (s.newSieve a b k).sieveValid = false := rfl
@[simp] theorem State.newSieve_cntValid (a b k : Nat) : (s.newSieve a b k).cntValid = false := rfl
@[simp] theorem State.newSieve_primed (a b k : Nat) : (s.newSieve a b k).primed = false := rfl
@[simp] theorem State.newSieve_start (a b k : Nat) : (s.newSieve a b k).start = BitVec.ofNat 64 a := rfl
@[simp] theorem State.newSieve_size (a b k : Nat) : (s.newSieve a b k).size = BitVec.ofNat 32 (b / 30) := rfl
@[simp] theorem State.newSieve_wcap (a b k : Nat) : (s.newSieve a b k).wcap = BitVec.ofNat 32 (max 4 k) := rfl
@[simp] theorem State.newSieve_wcnt (a b k : Nat) : (s.newSieve a b k).wcnt = 4 := rfl
@[simp] theorem State.newSieve_cntn (a b k : Nat) : (s.newSieve a b k).cntn = Config.freeCntn s.freeIndex := rfl
@[simp] theorem State.newSieve_bytes (a b k : Nat) : (s.newSieve a b k).bytes = [] := rfl
@[simp] theorem State.newSieve_wheel (a b k : Nat) : (s.newSieve a b k).wheel = [] := rfl
@[simp] theorem State.newSieve_cnt (a b k : Nat) : (s.newSieve a b k).cnt = [] := rfl
@[simp] theorem State.newSieve_cidx (a b k : Nat) : (s.newSieve a b k).cidx = s.cidx := rfl
@[simp] theorem State.newSieve_responses (a b k : Nat) : (s.newSieve a b k).responses = s.responses := rfl
@[simp] theorem State.newSieve_cfg (a b k : Nat) : (s.newSieve a b k).cfg = s.cfg := rfl
@[simp] theorem State.newSieve_inbox (a b k : Nat) : (s.newSieve a b k).inbox = s.inbox := rfl
@[simp] theorem State.newSieve_freeIndex (a b k : Nat) : (s.newSieve a b k).freeIndex = s.freeIndex + 1 := rfl

/-! ### `State.openSegment` -/

@[simp] theorem State.openSegment_created (l h : Nat) : (s.openSegment l h).created = s.created := rfl
@[simp] theorem State.openSegment_fault (l h : Nat) : (s.openSegment l h).fault = s.fault := rfl
@[simp] theorem State.openSegment_cause (l h : Nat) : (s.openSegment l h).cause = s.cause := rfl
@[simp] theorem State.openSegment_sieveValid (l h : Nat) : (s.openSegment l h).sieveValid = true := rfl
@[simp] theorem State.openSegment_cntValid (l h : Nat) : (s.openSegment l h).cntValid = false := rfl
@[simp] theorem State.openSegment_primed (l h : Nat) : (s.openSegment l h).primed = true := rfl
@[simp] theorem State.openSegment_start (l h : Nat) : (s.openSegment l h).start = BitVec.ofNat 64 l := rfl
@[simp] theorem State.openSegment_size (l h : Nat) :
    (s.openSegment l h).size =
      BitVec.ofNat 32 (presieveSize (h - l)) := rfl
@[simp] theorem State.openSegment_wcap (l h : Nat) : (s.openSegment l h).wcap = s.wcap := rfl
@[simp] theorem State.openSegment_wcnt (l h : Nat) : (s.openSegment l h).wcnt = s.wcnt := rfl
@[simp] theorem State.openSegment_cntn (l h : Nat) : (s.openSegment l h).cntn = s.cntn := rfl
@[simp] theorem State.openSegment_bytes (l h : Nat) :
    (s.openSegment l h).bytes =
      maskTail (Store.truncate (fillBytes s.bytes s.size.toNat) (presieveSize (h - l))) (presieveSize (h - l)) (h - l) := rfl
@[simp] theorem State.openSegment_wheel (l h : Nat) : (s.openSegment l h).wheel = s.wheel := rfl
@[simp] theorem State.openSegment_cnt (l h : Nat) : (s.openSegment l h).cnt = s.cnt := rfl
@[simp] theorem State.openSegment_cidx (l h : Nat) : (s.openSegment l h).cidx = s.cidx := rfl
@[simp] theorem State.openSegment_responses (l h : Nat) : (s.openSegment l h).responses = s.responses := rfl
@[simp] theorem State.openSegment_cfg (l h : Nat) : (s.openSegment l h).cfg = s.cfg := rfl
@[simp] theorem State.openSegment_inbox (l h : Nat) : (s.openSegment l h).inbox = s.inbox := rfl
@[simp] theorem State.openSegment_freeIndex (l h : Nat) : (s.openSegment l h).freeIndex = s.freeIndex := rfl

/-! ### `State.initCounters` -/

@[simp] theorem State.initCounters_created : (s.initCounters).created = s.created := rfl
@[simp] theorem State.initCounters_fault : (s.initCounters).fault = s.fault := rfl
@[simp] theorem State.initCounters_cause : (s.initCounters).cause = s.cause := rfl
@[simp] theorem State.initCounters_sieveValid : (s.initCounters).sieveValid = s.sieveValid := rfl
@[simp] theorem State.initCounters_cntValid : (s.initCounters).cntValid = true := rfl
@[simp] theorem State.initCounters_primed : (s.initCounters).primed = s.primed := rfl
@[simp] theorem State.initCounters_start : (s.initCounters).start = s.start := rfl
@[simp] theorem State.initCounters_size : (s.initCounters).size = s.size := rfl
@[simp] theorem State.initCounters_wcap : (s.initCounters).wcap = s.wcap := rfl
@[simp] theorem State.initCounters_wcnt : (s.initCounters).wcnt = s.wcnt := rfl
@[simp] theorem State.initCounters_cntn : (s.initCounters).cntn = BitVec.ofNat 64 (8 * s.size.toNat) := rfl
@[simp] theorem State.initCounters_bytes : (s.initCounters).bytes = s.bytes := rfl
@[simp] theorem State.initCounters_wheel : (s.initCounters).wheel = s.wheel := rfl
@[simp] theorem State.initCounters_cnt :
    (s.initCounters).cnt =
      Store.overwrite s.cnt (8 * s.size.toNat) (initialCounter s.bytes) := rfl
@[simp] theorem State.initCounters_cidx : (s.initCounters).cidx = s.cidx := rfl
@[simp] theorem State.initCounters_responses : (s.initCounters).responses = s.responses := rfl
@[simp] theorem State.initCounters_cfg : (s.initCounters).cfg = s.cfg := rfl
@[simp] theorem State.initCounters_inbox : (s.initCounters).inbox = s.inbox := rfl
@[simp] theorem State.initCounters_freeIndex : (s.initCounters).freeIndex = s.freeIndex := rfl

/-! ### `State.unset` -/

@[simp] theorem State.unset_created (k : Nat) : (s.unset k).created = s.created := rfl
@[simp] theorem State.unset_fault (k : Nat) : (s.unset k).fault = s.fault := rfl
@[simp] theorem State.unset_cause (k : Nat) : (s.unset k).cause = s.cause := rfl
@[simp] theorem State.unset_sieveValid (k : Nat) : (s.unset k).sieveValid = s.sieveValid := rfl
@[simp] theorem State.unset_cntValid (k : Nat) : (s.unset k).cntValid = s.cntValid := rfl
@[simp] theorem State.unset_primed (k : Nat) : (s.unset k).primed = s.primed := rfl
@[simp] theorem State.unset_start (k : Nat) : (s.unset k).start = s.start := rfl
@[simp] theorem State.unset_size (k : Nat) : (s.unset k).size = s.size := rfl
@[simp] theorem State.unset_wcap (k : Nat) : (s.unset k).wcap = s.wcap := rfl
@[simp] theorem State.unset_wcnt (k : Nat) : (s.unset k).wcnt = s.wcnt := rfl
@[simp] theorem State.unset_cntn (k : Nat) : (s.unset k).cntn = s.cntn := rfl
@[simp] theorem State.unset_bytes (k : Nat) : (s.unset k).bytes = clear s.bytes k := rfl
@[simp] theorem State.unset_wheel (k : Nat) : (s.unset k).wheel = s.wheel := rfl
@[simp] theorem State.unset_cnt (k : Nat) : (s.unset k).cnt = update s.cntn.toNat k s.cnt := rfl
@[simp] theorem State.unset_cidx (k : Nat) : (s.unset k).cidx = s.cidx := rfl
@[simp] theorem State.unset_responses (k : Nat) : (s.unset k).responses = s.responses := rfl
@[simp] theorem State.unset_cfg (k : Nat) : (s.unset k).cfg = s.cfg := rfl
@[simp] theorem State.unset_inbox (k : Nat) : (s.unset k).inbox = s.inbox := rfl
@[simp] theorem State.unset_freeIndex (k : Nat) : (s.unset k).freeIndex = s.freeIndex := rfl

/-! ### `State.addWheel` -/

@[simp] theorem State.addWheel_created (p : Nat) : (s.addWheel p).created = s.created := rfl
@[simp] theorem State.addWheel_fault (p : Nat) : (s.addWheel p).fault = s.fault := rfl
@[simp] theorem State.addWheel_cause (p : Nat) : (s.addWheel p).cause = s.cause := rfl
@[simp] theorem State.addWheel_sieveValid (p : Nat) : (s.addWheel p).sieveValid = s.sieveValid := rfl
@[simp] theorem State.addWheel_cntValid (p : Nat) : (s.addWheel p).cntValid = s.cntValid := rfl
@[simp] theorem State.addWheel_primed (p : Nat) : (s.addWheel p).primed = s.primed := rfl
@[simp] theorem State.addWheel_start (p : Nat) : (s.addWheel p).start = s.start := rfl
@[simp] theorem State.addWheel_size (p : Nat) : (s.addWheel p).size = s.size := rfl
@[simp] theorem State.addWheel_wcap (p : Nat) : (s.addWheel p).wcap = s.wcap := rfl
@[simp] theorem State.addWheel_wcnt (p : Nat) : (s.addWheel p).wcnt = s.wcnt + 1 := rfl
@[simp] theorem State.addWheel_cntn (p : Nat) : (s.addWheel p).cntn = s.cntn := rfl
@[simp] theorem State.addWheel_bytes (p : Nat) : (s.addWheel p).bytes = s.bytes := rfl
@[simp] theorem State.addWheel_wheel (p : Nat) :
    (s.addWheel p).wheel =
      Store.write s.wheel s.wheelCount (freshEntry s.start.toNat p) := rfl
@[simp] theorem State.addWheel_cnt (p : Nat) : (s.addWheel p).cnt = s.cnt := rfl
@[simp] theorem State.addWheel_cidx (p : Nat) : (s.addWheel p).cidx = s.cidx := rfl
@[simp] theorem State.addWheel_responses (p : Nat) : (s.addWheel p).responses = s.responses := rfl
@[simp] theorem State.addWheel_cfg (p : Nat) : (s.addWheel p).cfg = s.cfg := rfl
@[simp] theorem State.addWheel_inbox (p : Nat) : (s.addWheel p).inbox = s.inbox := rfl
@[simp] theorem State.addWheel_freeIndex (p : Nat) : (s.addWheel p).freeIndex = s.freeIndex := rfl

/-! ### `State.applyReset` -/

@[simp] theorem State.applyReset_created : (s.applyReset).created = false := rfl
@[simp] theorem State.applyReset_fault : (s.applyReset).fault = false := rfl
@[simp] theorem State.applyReset_cause : (s.applyReset).cause = 0 := rfl
@[simp] theorem State.applyReset_sieveValid : (s.applyReset).sieveValid = false := rfl
@[simp] theorem State.applyReset_cntValid : (s.applyReset).cntValid = false := rfl
@[simp] theorem State.applyReset_primed : (s.applyReset).primed = false := rfl
@[simp] theorem State.applyReset_start : (s.applyReset).start = 0 := rfl
@[simp] theorem State.applyReset_size : (s.applyReset).size = 0 := rfl
@[simp] theorem State.applyReset_wcap : (s.applyReset).wcap = 0 := rfl
@[simp] theorem State.applyReset_wcnt : (s.applyReset).wcnt = 0 := rfl
@[simp] theorem State.applyReset_cntn : (s.applyReset).cntn = 0 := rfl
@[simp] theorem State.applyReset_bytes : (s.applyReset).bytes = [] := rfl
@[simp] theorem State.applyReset_wheel : (s.applyReset).wheel = [] := rfl
@[simp] theorem State.applyReset_cnt : (s.applyReset).cnt = [] := rfl
@[simp] theorem State.applyReset_cidx : (s.applyReset).cidx = 0 := rfl
@[simp] theorem State.applyReset_responses : (s.applyReset).responses = [] := rfl
@[simp] theorem State.applyReset_cfg : (s.applyReset).cfg = s.cfg := rfl
@[simp] theorem State.applyReset_inbox : (s.applyReset).inbox = s.inbox := rfl
@[simp] theorem State.applyReset_freeIndex : (s.applyReset).freeIndex = s.freeIndex := rfl

/-! ### `State.afterFault` -/

@[simp] theorem State.afterFault_created (c : Cause) : (s.afterFault c).created = s.created := rfl
@[simp] theorem State.afterFault_fault (c : Cause) : (s.afterFault c).fault = true := rfl
@[simp] theorem State.afterFault_cause (c : Cause) : (s.afterFault c).cause = c.code := rfl
@[simp] theorem State.afterFault_sieveValid (c : Cause) : (s.afterFault c).sieveValid = s.sieveValid := rfl
@[simp] theorem State.afterFault_cntValid (c : Cause) : (s.afterFault c).cntValid = s.cntValid := rfl
@[simp] theorem State.afterFault_primed (c : Cause) : (s.afterFault c).primed = s.primed := rfl
@[simp] theorem State.afterFault_start (c : Cause) : (s.afterFault c).start = s.start := rfl
@[simp] theorem State.afterFault_size (c : Cause) : (s.afterFault c).size = s.size := rfl
@[simp] theorem State.afterFault_wcap (c : Cause) : (s.afterFault c).wcap = s.wcap := rfl
@[simp] theorem State.afterFault_wcnt (c : Cause) : (s.afterFault c).wcnt = s.wcnt := rfl
@[simp] theorem State.afterFault_cntn (c : Cause) : (s.afterFault c).cntn = s.cntn := rfl
@[simp] theorem State.afterFault_bytes (c : Cause) : (s.afterFault c).bytes = s.bytes := rfl
@[simp] theorem State.afterFault_wheel (c : Cause) : (s.afterFault c).wheel = s.wheel := rfl
@[simp] theorem State.afterFault_cnt (c : Cause) : (s.afterFault c).cnt = s.cnt := rfl
@[simp] theorem State.afterFault_cidx (c : Cause) : (s.afterFault c).cidx = s.cidx + 1 := rfl
@[simp] theorem State.afterFault_responses (c : Cause) :
    (s.afterFault c).responses =
      s.responses ++ [faultWord c.code] := rfl
@[simp] theorem State.afterFault_cfg (c : Cause) : (s.afterFault c).cfg = s.cfg := rfl
@[simp] theorem State.afterFault_inbox (c : Cause) : (s.afterFault c).inbox = s.inbox := rfl
@[simp] theorem State.afterFault_freeIndex (c : Cause) : (s.afterFault c).freeIndex = s.freeIndex := rfl

/-! ### `State.afterResult` -/

@[simp] theorem State.afterResult_created (v : Nat) : (s.afterResult v).created = s.created := rfl
@[simp] theorem State.afterResult_fault (v : Nat) : (s.afterResult v).fault = s.fault := rfl
@[simp] theorem State.afterResult_cause (v : Nat) : (s.afterResult v).cause = s.cause := rfl
@[simp] theorem State.afterResult_sieveValid (v : Nat) : (s.afterResult v).sieveValid = s.sieveValid := rfl
@[simp] theorem State.afterResult_cntValid (v : Nat) : (s.afterResult v).cntValid = s.cntValid := rfl
@[simp] theorem State.afterResult_primed (v : Nat) : (s.afterResult v).primed = s.primed := rfl
@[simp] theorem State.afterResult_start (v : Nat) : (s.afterResult v).start = s.start := rfl
@[simp] theorem State.afterResult_size (v : Nat) : (s.afterResult v).size = s.size := rfl
@[simp] theorem State.afterResult_wcap (v : Nat) : (s.afterResult v).wcap = s.wcap := rfl
@[simp] theorem State.afterResult_wcnt (v : Nat) : (s.afterResult v).wcnt = s.wcnt := rfl
@[simp] theorem State.afterResult_cntn (v : Nat) : (s.afterResult v).cntn = s.cntn := rfl
@[simp] theorem State.afterResult_bytes (v : Nat) : (s.afterResult v).bytes = s.bytes := rfl
@[simp] theorem State.afterResult_wheel (v : Nat) : (s.afterResult v).wheel = s.wheel := rfl
@[simp] theorem State.afterResult_cnt (v : Nat) : (s.afterResult v).cnt = s.cnt := rfl
@[simp] theorem State.afterResult_cidx (v : Nat) : (s.afterResult v).cidx = s.cidx + 1 := rfl
@[simp] theorem State.afterResult_responses (v : Nat) :
    (s.afterResult v).responses =
      s.responses ++ [okWord (BitVec.ofNat 64 v)] := rfl
@[simp] theorem State.afterResult_cfg (v : Nat) : (s.afterResult v).cfg = s.cfg := rfl
@[simp] theorem State.afterResult_inbox (v : Nat) : (s.afterResult v).inbox = s.inbox := rfl
@[simp] theorem State.afterResult_freeIndex (v : Nat) : (s.afterResult v).freeIndex = s.freeIndex := rfl

/-- The explicit form of fault entry agrees with the shared operation. -/
theorem State.raiseFault_eq (c : Cause) : s.raiseFault c = s.afterFault c := rfl

/-- The explicit form of a result agrees with the shared operation. -/
theorem State.respond_eq (v : Nat) : s.respond v = s.afterResult v := rfl

end Sys2Proof.Machine
end

