-- ==== Sys2Proof/Laws/Store.lean ====
section
/-! SUPPORT. What reading and writing cells do, and that every memory operation keeps the canonical form. -/

namespace Sys2Proof.Machine

variable {α : Type}

@[simp] theorem Store.read_nil (a : Nat) : Store.read ([] : Store α) a = none := rfl

theorem Store.read_cons (k a : Nat) (v : α) (m : Store α) :
    Store.read ((k, v) :: m) a = if k = a then some v else Store.read m a := rfl

/-- A read after a write to the same cell gives the value written. -/
@[simp] theorem Store.read_write_same (m : Store α) (a : Nat) (v : α) : Store.read (Store.write m a v) a = some v := by
  induction m with
  | nil => simp [Store.write, Store.read]
  | cons x m ih =>
    obtain ⟨k, w⟩ := x
    unfold Store.write
    split
    · simp [Store.read]
    · split
      · simp [Store.read]
      · simp [Store.read, ih]; omega

/-- A write leaves every other cell alone. -/
theorem Store.read_write_other (m : Store α) {a b : Nat} (v : α) (h : b ≠ a) :
    Store.read (Store.write m a v) b = Store.read m b := by
  induction m with
  | nil => simp [Store.write, Store.read]; omega
  | cons x m ih =>
    obtain ⟨k, w⟩ := x
    unfold Store.write
    split
    · rw [Store.read_cons, if_neg (by omega)]
    · split
      · subst_vars
        rw [Store.read_cons, Store.read_cons, if_neg (by omega), if_neg (by omega)]
      · simp [Store.read, ih]

/-- Reading after a write, both cases at once. -/
theorem Store.read_write (m : Store α) (a b : Nat) (v : α) :
    Store.read (Store.write m a v) b = if b = a then some v else Store.read m b := by
  split
  · subst_vars; simp
  · exact Store.read_write_other m v ‹_›

theorem Store.read_append (m n : Store α) (a : Nat) :
    Store.read (m ++ n) a = (Store.read m a).or (Store.read n a) := by
  induction m with
  | nil => simp
  | cons x m ih =>
    obtain ⟨k, w⟩ := x
    simp only [List.cons_append, Store.read_cons, ih]
    split <;> simp

theorem Store.read_filter (m : Store α) (p : Nat → Bool) (a : Nat) :
    Store.read (m.filter fun x => p x.1) a = if p a then Store.read m a else none := by
  induction m with
  | nil => simp
  | cons x m ih =>
    obtain ⟨k, w⟩ := x
    rw [List.filter_cons]
    by_cases hk : p k
    · simp only [hk, if_true, Store.read_cons, ih]
      by_cases h : k = a
      · subst h; simp [hk]
      · simp [h]
    · simp only [hk, Bool.false_eq_true, if_false, Store.read_cons, ih]
      by_cases h : k = a
      · subst h; simp [hk]
      · simp [h]

/-- A truncated memory reads as before below the bound and holds no value from it on. -/
theorem Store.read_truncate (m : Store α) (n a : Nat) :
    Store.read (Store.truncate m n) a = if a < n then Store.read m a else none := by
  rw [Store.truncate, Store.read_filter m (fun k => decide (k < n))]; simp

theorem Store.read_map_range' (f : Nat → α) (first n a : Nat) :
    Store.read ((List.range' first n).map fun b => (b, f b)) a =
      if first ≤ a ∧ a < first + n then some (f a) else none := by
  induction n generalizing first with
  | zero => simp
  | succ n ih =>
    rw [List.range'_succ, List.map_cons, Store.read_cons, ih]
    by_cases h : first = a
    · subst h; simp
    · simp only [h, if_false]
      congr 1
      simp only [eq_iff_iff]
      omega

/-- What `overwrite` does to every cell. -/
theorem Store.read_overwrite (m : Store α) (n : Nat) (f : Nat → α) (a : Nat) :
    Store.read (Store.overwrite m n f) a = if a < n then some (f a) else Store.read m a := by
  rw [Store.overwrite, Store.read_append, List.range_eq_range', Store.read_map_range' f 0 n a,
    Store.read_filter m (fun k => decide (n ≤ k))]
  by_cases h : a < n
  · simp [h]
  · simp [h]

/-- `covers` says that every cell below the bound holds a value. -/
theorem Store.covers_iff (m : Store α) (n : Nat) :
    Store.covers m n = true ↔ ∀ a, a < n → ∃ v, Store.read m a = some v := by
  simp [Store.covers, Option.isSome_iff_exists]

/-! ### The canonical form -/

theorem Store.mem_write {m : Store α} {a : Nat} {v : α} {x : Nat × α} (h : x ∈ Store.write m a v) :
    x = (a, v) ∨ x ∈ m := by
  induction m with
  | nil => simpa [Store.write] using h
  | cons y m ih =>
    obtain ⟨k, w⟩ := y
    unfold Store.write at h
    split at h
    · simpa using h
    · split at h
      · simp only [List.mem_cons] at h ⊢; tauto
      · simp only [List.mem_cons] at h ⊢
        rcases h with h | h
        · exact .inr (.inl h)
        · rcases ih h with h | h
          · exact .inl h
          · exact .inr (.inr h)

/-- A write keeps addresses strictly rising. -/
theorem Store.wf_write {m : Store α} (h : Store.wf m) (a : Nat) (v : α) : Store.wf (Store.write m a v) := by
  induction m with
  | nil => simp [Store.write, Store.wf]
  | cons x m ih =>
    obtain ⟨k, w⟩ := x
    have hm := List.pairwise_cons.mp h
    unfold Store.write
    split
    · refine List.pairwise_cons.mpr ⟨fun y hy => ?_, h⟩
      rcases List.mem_cons.mp hy with rfl | hy
      · assumption
      · have := hm.1 y hy; simp only at this ⊢; omega
    · split
      · subst_vars; exact List.pairwise_cons.mpr ⟨hm.1, hm.2⟩
      · refine List.pairwise_cons.mpr ⟨fun y hy => ?_, ih hm.2⟩
        rcases Store.mem_write hy with rfl | hy
        · simp only; omega
        · exact hm.1 y hy

/-- Truncation keeps addresses strictly rising. -/
theorem Store.wf_truncate {m : Store α} (h : Store.wf m) (n : Nat) : Store.wf (Store.truncate m n) :=
  List.Pairwise.filter _ h

/-- `overwrite` keeps addresses strictly rising. -/
theorem Store.wf_overwrite {m : Store α} (h : Store.wf m) (n : Nat) (f : Nat → α) : Store.wf (Store.overwrite m n f) := by
  refine List.pairwise_append.mpr ⟨?_, List.Pairwise.filter _ h, ?_⟩
  · exact List.pairwise_map.mpr List.pairwise_lt_range
  · intro x hx y hy
    obtain ⟨a, ha, rfl⟩ := List.mem_map.mp hx
    have h1 := List.mem_range.mp ha
    have h2 := (List.mem_filter.mp hy).2
    simp only [decide_eq_true_eq] at h2 ⊢
    omega

/-- `clear` keeps addresses strictly rising. -/
theorem clear_wf {m : Memory} (h : Memory.wf m) (pos : Nat) : Memory.wf (clear m pos) := by
  unfold clear
  split
  · exact Store.wf_write h _ _
  · exact h

/-- `memWrite` keeps addresses strictly rising. -/
theorem memWrite_wf {m m' : Memory} {size addr n v : Nat} (h : Memory.wf m) (hw : memWrite m size addr n v = some m') :
    Memory.wf m' := by
  have fold : ∀ (l : List Nat) (m0 : Memory), Memory.wf m0 →
      Memory.wf (l.foldl (fun acc t => Store.write acc (addr + t) (BitVec.ofNat 8 (v / 256 ^ t))) m0) := by
    intro l
    induction l with
    | nil => exact fun _ h0 => h0
    | cons t l ih => exact fun m0 h0 => ih _ (Store.wf_write h0 _ _)
  unfold memWrite at hw
  split at hw
  · split at hw
    · cases hw; exact Store.wf_write h _ _
    · split at hw
      · cases hw; exact fold _ _ h
      · cases hw
  · cases hw

/-- Filling keeps addresses strictly rising. -/
theorem fillBytes_wf {m : Memory} (h : Memory.wf m) (size : Nat) : Memory.wf (fillBytes m size) :=
  Store.wf_overwrite h _ _

/-- Masking the tail keeps addresses strictly rising. -/
theorem maskTail_wf {m : Memory} (h : Memory.wf m) (size d : Nat) : Memory.wf (maskTail m size d) := by
  have fold : ∀ (l : List Nat) (m0 : Memory), Memory.wf m0 →
      Memory.wf (l.foldl (fun acc pos => if d ≤ offOf pos then clear acc pos else acc) m0) := by
    intro l
    induction l with
    | nil => exact fun _ h0 => h0
    | cons pos l ih =>
      intro m0 h0
      refine ih _ ?_
      dsimp only
      split
      · exact clear_wf h0 pos
      · exact h0
  exact fold _ _ h

/-- `update` keeps addresses strictly rising. -/
theorem updateLoop_wf {cnt : Store (BitVec 64)} (h : Store.wf cnt) (cntn fuel j : Nat) :
    Store.wf (updateLoop cntn fuel j cnt) := by
  induction fuel generalizing j cnt with
  | zero => exact h
  | succ fuel ih =>
    unfold updateLoop
    split
    · split
      · exact ih (Store.wf_write h _ _) _
      · exact ih h _
    · exact h

/-- A crossing step keeps both memories' addresses strictly rising. -/
theorem crossStep_wf {x : Crossing} (hb : Memory.wf x.bytes) (hc : Store.wf x.cnt) (k c cntn : Nat) (counted : Bool) :
    Memory.wf (crossStep k c cntn counted x).bytes ∧ Store.wf (crossStep k c cntn counted x).cnt := by
  unfold crossStep
  dsimp only
  split
  · refine ⟨clear_wf hb _, ?_⟩
    dsimp only
    split
    · exact updateLoop_wf hc _ _ _
    · exact hc
  · exact ⟨hb, hc⟩

/-- The crossing loop keeps both memories' addresses strictly rising. -/
theorem crossLoop_wf {x : Crossing} (hb : Memory.wf x.bytes) (hc : Store.wf x.cnt) (size k c cntn : Nat) (counted : Bool)
    (fuel : Nat) :
    Memory.wf (crossLoop size k c cntn counted fuel x).bytes ∧
      Store.wf (crossLoop size k c cntn counted fuel x).cnt := by
  induction fuel generalizing x with
  | zero => exact ⟨hb, hc⟩
  | succ fuel ih =>
    unfold crossLoop
    split
    · exact ih (crossStep_wf hb hc k c cntn counted).1 (crossStep_wf hb hc k c cntn counted).2
    · exact ⟨hb, hc⟩

/-- At reset every memory has its canonical form. -/
theorem reset_memories_wf : Memory.wf State.reset.bytes ∧ Store.wf State.reset.wheel ∧ Store.wf State.reset.cnt :=
  ⟨List.Pairwise.nil, List.Pairwise.nil, List.Pairwise.nil⟩

end Sys2Proof.Machine
end

