-- ==== Sys2Proof/Laws/Ops.lean ====
section
/-! SUPPORT. For each shared operation, one lemma that says what it can do. -/

namespace Sys2Proof.Machine

/-! ### Checks and the order of faults -/

/-- No check fails exactly when every condition holds. -/
theorem firstFailing_eq_none (l : List Check) : firstFailing l = none ↔ ∀ x ∈ l, x.1 = true := by
  induction l with
  | nil => simp [firstFailing]
  | cons x l ih =>
    obtain ⟨b, c⟩ := x
    cases b <;> simp [firstFailing, ih]

/-- The first failing check is in the list, fails, and every check before it holds. -/
theorem firstFailing_eq_some (l : List Check) (c : Cause) :
    firstFailing l = some c ↔ ∃ before after, l = before ++ (false, c) :: after ∧ ∀ x ∈ before, x.1 = true := by
  induction l with
  | nil => simp [firstFailing]
  | cons x l ih =>
    obtain ⟨b, c'⟩ := x
    cases b with
    | false =>
      simp only [firstFailing, Bool.false_eq_true, if_false, Option.some.injEq]
      constructor
      · rintro rfl; exact ⟨[], l, rfl, by simp⟩
      · rintro ⟨before, after, h, hb⟩
        cases before with
        | nil => simpa using congrArg (fun l => (l.head?.map Prod.snd)) h
        | cons y before =>
          have : y = (false, c') := by simpa using (congrArg List.head? h).symm
          have := hb y (by simp)
          simp_all
    | true =>
      simp only [firstFailing, if_true, ih]
      constructor
      · rintro ⟨before, after, rfl, hb⟩
        exact ⟨(true, c') :: before, after, rfl, by simpa using hb⟩
      · rintro ⟨before, after, h, hb⟩
        cases before with
        | nil => simp at h
        | cons y before =>
          simp only [List.cons_append, List.cons.injEq] at h
          exact ⟨before, after, h.2, fun x hx => hb x (by simp [hx])⟩

section
variable {needsCreated : Bool} {checks : State → List Check} {effect : State → Host.Outcome State Fault Refusal} {s : State}

/-- R174: the sticky answer comes first. -/
theorem runCommand_of_fault (h : s.fault = true) :
    runCommand needsCreated checks effect s = .next s.stickyAnswer := by simp [runCommand, h]

/-- R176 step 3. -/
theorem runCommand_of_not_created (h : s.fault = false) (hc : s.created = false) :
    runCommand true checks effect s = .next (s.raiseFault .state) := by simp [runCommand, h, hc]

/-- R176 step 4: a failing check. -/
theorem runCommand_of_failing {c : Cause} (h : s.fault = false) (hc : needsCreated = true → s.created = true)
    (hf : firstFailing (checks s) = some c) : runCommand needsCreated checks effect s = .next (s.raiseFault c) := by
  have : (needsCreated && !s.created) = false := by
    cases needsCreated <;> simp_all
  simp [runCommand, h, this, hf]

/-- R176 step 4: every check holds, and the effect takes place. -/
theorem runCommand_of_holding (h : s.fault = false) (hc : needsCreated = true → s.created = true)
    (hf : firstFailing (checks s) = none) : runCommand needsCreated checks effect s = effect s := by
  have : (needsCreated && !s.created) = false := by
    cases needsCreated <;> simp_all
  simp [runCommand, h, this, hf]

/-- All a command can do: answer stickily, fault for lack of `CREATED`, fault at its first failing check, or take effect. -/
theorem runCommand_cases :
    (s.fault = true ∧ runCommand needsCreated checks effect s = .next s.stickyAnswer) ∨
    (s.fault = false ∧ needsCreated = true ∧ s.created = false ∧
      runCommand needsCreated checks effect s = .next (s.raiseFault .state)) ∨
    (∃ c, s.fault = false ∧ (needsCreated = true → s.created = true) ∧ firstFailing (checks s) = some c ∧
      runCommand needsCreated checks effect s = .next (s.raiseFault c)) ∨
    (s.fault = false ∧ (needsCreated = true → s.created = true) ∧ firstFailing (checks s) = none ∧
      runCommand needsCreated checks effect s = effect s) := by
  cases hf : s.fault with
  | true => exact .inl ⟨rfl, runCommand_of_fault hf⟩
  | false =>
    by_cases hc : needsCreated = true → s.created = true
    · cases hk : firstFailing (checks s) with
      | some c => exact .inr (.inr (.inl ⟨c, rfl, hc, rfl, runCommand_of_failing hf hc hk⟩))
      | none => exact .inr (.inr (.inr ⟨rfl, hc, rfl, runCommand_of_holding hf hc hk⟩))
    · have hn : needsCreated = true := by by_contra h; simp [h] at hc
      subst hn
      have hcr : s.created = false := by simpa using hc
      exact .inr (.inl ⟨rfl, rfl, hcr, runCommand_of_not_created hf hcr⟩)

end

/-- A read-guarded effect completes exactly when the cells hold values. -/
theorem whenReadable_eq_next (r : Bool) (s t : State) : whenReadable r s = .next t ↔ r = true ∧ s = t := by
  cases r <;> simp [whenReadable]

/-- The answer to an illegal word, both cases. -/
theorem answerIllegal_cases (s : State) :
    (s.fault = true ∧ s.answerIllegal = s.stickyAnswer) ∨
      (s.fault = false ∧ s.answerIllegal = s.raiseFault .illegal) := by
  cases h : s.fault <;> simp [State.answerIllegal, h]

/-! ### Bits -/

theorem getLsbD_clearBit (b : Byte) {k i : Nat} (hi : i < 8) :
    (clearBit b k).getLsbD i = (b.getLsbD i && decide (i ≠ k)) := by
  simp only [clearBit, BitVec.getLsbD_and, BitVec.getLsbD_not, BitVec.getLsbD_twoPow, hi, decide_true, Bool.true_and]
  by_cases h : k = i
  · subst h; simp [hi]
  · simp [h, Ne.symm h]

/-- `clear(pos)` kills that bit and no other. -/
theorem live_clear (m : Memory) (pos q : Nat) : live (clear m pos) q = (live m q && decide (q ≠ pos)) := by
  unfold clear
  cases hb : Store.read m (pos / 8) with
  | none =>
    by_cases h : q = pos
    · subst h; simp [live, hb]
    · simp [h]
  | some b =>
    dsimp only
    by_cases hq : q / 8 = pos / 8
    · simp only [live, hq, hb, Store.read_write_same]
      rw [getLsbD_clearBit b (Nat.mod_lt _ (by decide))]
      congr 1
      simp only [decide_eq_decide]
      omega
    · have hne : q ≠ pos := fun h => hq (by rw [h])
      simp [live, Store.read_write_other _ _ hq, hne]

/-- `clear` keeps every byte's presence, and every other byte. -/
theorem read_clear_other (m : Memory) {pos a : Nat} (h : a ≠ pos / 8) :
    Store.read (clear m pos) a = Store.read m a := by
  unfold clear
  split
  · exact Store.read_write_other _ _ h
  · rfl

theorem read_clear_isSome (m : Memory) (pos a : Nat) :
    (Store.read (clear m pos) a).isSome = (Store.read m a).isSome := by
  unfold clear
  split
  · rw [Store.read_write]
    split
    · subst_vars; simp [*]
    · rfl
  · rfl

/-! ### The wheel registers -/

/-- Every number from 1 to 2^32 that is written to a wheel register is the number it stands for. -/
theorem entryNumber_ofNat {n : Nat} (h0 : 0 < n) (h : n ≤ 2 ^ 32) : entryNumber (BitVec.ofNat 32 n) = n := by
  unfold entryNumber
  rcases Nat.lt_or_eq_of_le h with hlt | rfl
  · have hn : (BitVec.ofNat 32 n).toNat = n := by rw [BitVec.toNat_ofNat, Nat.mod_eq_of_lt hlt]
    rw [if_neg, hn]
    intro hz
    rw [hz] at hn
    simp at hn
    omega
  · rfl

/-- Raising a wheel register by 1 raises the number it stands for by 1, up to 2^32. -/
theorem entryNumber_succ {r : BitVec 32} (h : entryNumber r < 2 ^ 32) : entryNumber (r + 1) = entryNumber r + 1 := by
  have hr : r ≠ 0 := by rintro rfl; simp [entryNumber] at h
  have he : entryNumber r = r.toNat := if_neg hr
  have hlt : r.toNat < 2 ^ 32 := r.isLt
  rw [he, show r + 1 = BitVec.ofNat 32 (r.toNat + 1) by simp [BitVec.ofNat_add]]
  exact entryNumber_ofNat (by omega) (by omega)

/-- The numbers NEW leaves in the wheel registers (R90). -/
theorem newSieve_wheelCapacity (s : State) (start segmentSize : Nat) {wheelCapacity : Nat} (h : wheelCapacity ≤ 2 ^ 32) :
    (s.newSieve start segmentSize wheelCapacity).wheelCapacity = max 4 wheelCapacity :=
  entryNumber_ofNat (by omega) (by omega)

@[simp] theorem newSieve_wheelCount (s : State) (start segmentSize wheelCapacity : Nat) :
    (s.newSieve start segmentSize wheelCapacity).wheelCount = 4 := rfl

/-- `add_wheel` raises the number of entries by 1 (R26, R128). -/
theorem addWheel_wheelCount {s : State} (p : Nat) (h : s.wheelCount < 2 ^ 32) :
    (s.addWheel p).wheelCount = s.wheelCount + 1 := entryNumber_succ h

/-! ### The crossing loop and body -/

/-- One crossing step: the visited position dies, every other bit stays, and the step is counted iff it was live. -/
theorem crossStep_bits (k c cntn : Nat) (counted : Bool) (x : Crossing) (q : Nat) :
    live (crossStep k c cntn counted x).bytes q = (live x.bytes q && decide (q ≠ 8 * x.m + BITPOS c x.j)) ∧
    (crossStep k c cntn counted x).total = x.total + (live x.bytes (8 * x.m + BITPOS c x.j)).toNat ∧
    (crossStep k c cntn counted x).m = x.m + k * DF x.j + DC c x.j ∧
    (crossStep k c cntn counted x).j = (x.j + 1) % 8 := by
  unfold crossStep
  dsimp only
  split
  · refine ⟨live_clear _ _ _, by simp [*], rfl, rfl⟩
  · refine ⟨?_, by simp [*], rfl, rfl⟩
    by_cases h : q = 8 * x.m + BITPOS c x.j
    · simp_all
    · simp [h]

/-- Crossing never revives a bit. -/
theorem crossLoop_bits_only_die (size k c cntn : Nat) (counted : Bool) (fuel : Nat) (x : Crossing) (q : Nat)
    (h : live (crossLoop size k c cntn counted fuel x).bytes q = true) : live x.bytes q = true := by
  induction fuel generalizing x with
  | zero => exact h
  | succ fuel ih =>
    unfold crossLoop at h
    split at h
    · have := ih _ h
      rw [(crossStep_bits k c cntn counted x q).1] at this
      simp_all
    · exact h

/-- Crossing keeps which bytes hold a value. -/
theorem crossLoop_present (size k c cntn : Nat) (counted : Bool) (fuel : Nat) (x : Crossing) (a : Nat) :
    (Store.read (crossLoop size k c cntn counted fuel x).bytes a).isSome = (Store.read x.bytes a).isSome := by
  induction fuel generalizing x with
  | zero => rfl
  | succ fuel ih =>
    unfold crossLoop
    split
    · rw [ih]
      unfold crossStep
      dsimp only
      split
      · exact read_clear_isSome _ _ _
      · rfl
    · rfl

/-- Uncounted crossing leaves the counters alone. -/
theorem crossLoop_uncounted (size k c cntn fuel : Nat) (x : Crossing) :
    (crossLoop size k c cntn false fuel x).cnt = x.cnt := by
  induction fuel generalizing x with
  | zero => rfl
  | succ fuel ih =>
    unfold crossLoop
    split
    · rw [ih]; unfold crossStep; dsimp only; split <;> rfl
    · rfl

/-- All a crossing body can do (R131): the entry is created if it is new, then entry, bits and counters are written. -/
theorem crossBody_cases {s t : State} {i p n : Nat} {counted : Bool} (h : s.crossBody i p counted = some (t, n)) :
    ∃ s1 e, (s1 = if i = s.wheelCount then s.addWheel p else s) ∧ Store.read s1.wheel i = some e ∧
      (t, n) = s1.crossEntry i p counted e := by
  unfold State.crossBody at h
  dsimp only at h
  cases he : Store.read (if i = s.wheelCount then s.addWheel p else s).wheel i with
  | none => rw [he] at h; simp at h
  | some e => rw [he] at h; exact ⟨_, e, rfl, he, by simpa using h.symm⟩

/-- What a crossing body leaves unchanged: everything but `bytes`, `cnt`, `wheel` and `WCNT`. -/
theorem crossBody_frame {s t : State} {i p n : Nat} {counted : Bool} (h : s.crossBody i p counted = some (t, n)) :
    t = { s with bytes := t.bytes, cnt := t.cnt, wheel := t.wheel, wcnt := t.wcnt } := by
  obtain ⟨s1, e, hs1, -, ht⟩ := crossBody_cases h
  have ht : t = (s1.crossEntry i p counted e).1 := congrArg Prod.fst ht
  subst ht hs1
  split <;> rfl

/-- A crossing body raises `WCNT` by one exactly when it creates its entry. -/
theorem crossBody_wcnt {s t : State} {i p n : Nat} {counted : Bool} (h : s.crossBody i p counted = some (t, n)) :
    t.wcnt = if i = s.wheelCount then s.wcnt + 1 else s.wcnt := by
  obtain ⟨s1, e, hs1, -, ht⟩ := crossBody_cases h
  have ht : t = (s1.crossEntry i p counted e).1 := congrArg Prod.fst ht
  subst ht hs1
  split <;> rfl

/-- A crossing body touches no wheel entry but its own. -/
theorem crossBody_wheel_other {s t : State} {i p n b : Nat} {counted : Bool} (h : s.crossBody i p counted = some (t, n))
    (hb : b ≠ i) : Store.read t.wheel b = Store.read s.wheel b := by
  obtain ⟨s1, e, hs1, -, ht⟩ := crossBody_cases h
  have ht : t = (s1.crossEntry i p counted e).1 := congrArg Prod.fst ht
  subst ht hs1
  simp only [State.crossEntry]
  rw [Store.read_write_other _ _ hb]
  split
  · simp only [State.addWheel_wheel]
    exact Store.read_write_other _ _ (by omega)
  · rfl

/-- An uncounted body leaves the counters alone. -/
theorem crossBody_uncounted {s t : State} {i p n : Nat} (h : s.crossBody i p false = some (t, n)) : t.cnt = s.cnt := by
  obtain ⟨s1, e, hs1, -, ht⟩ := crossBody_cases h
  have ht : t = (s1.crossEntry i p false e).1 := congrArg Prod.fst ht
  subst ht hs1
  simp only [State.crossEntry, crossLoop_uncounted]
  split <;> rfl

/-- The inner cross-offs of PRESIEVE change only `bytes`, `wheel` and `WCNT`. -/
theorem crossAll_frame {l : List Nat} {s t : State} (h : State.crossAll l s = some t) :
    t = { s with bytes := t.bytes, wheel := t.wheel, wcnt := t.wcnt } := by
  induction l generalizing s with
  | nil => cases h; rfl
  | cons i l ih =>
    unfold State.crossAll at h
    split at h
    · cases h
    · split at h
      · cases h
      · rename_i p _ r hr
        have h1 := ih h
        have h2 := crossBody_frame (t := r.1) (n := r.2) hr
        have h3 := crossBody_uncounted (t := r.1) (n := r.2) hr
        rw [h1, h2]
        simp only [h3]

/-! ### The counter tree -/

/-- `update` keeps which counters hold a value. -/
theorem updateLoop_present (cntn fuel j : Nat) (cnt : Store (BitVec 64)) (a : Nat) :
    (Store.read (updateLoop cntn fuel j cnt) a).isSome = (Store.read cnt a).isSome := by
  induction fuel generalizing j cnt with
  | zero => rfl
  | succ fuel ih =>
    unfold updateLoop
    split
    · split
      · rw [ih, Store.read_write]
        split
        · subst_vars; simp [*]
        · rfl
      · exact ih _ _
    · rfl

/-- `update` touches no counter outside `k .. CNTN-1`. -/
theorem updateLoop_outside (cntn fuel j : Nat) (cnt : Store (BitVec 64)) {a : Nat} (h : a < j ∨ cntn ≤ a) :
    Store.read (updateLoop cntn fuel j cnt) a = Store.read cnt a := by
  induction fuel generalizing j cnt with
  | zero => rfl
  | succ fuel ih =>
    unfold updateLoop
    have hup : j ≤ upCounter j := Nat.left_le_or
    split
    · have h' : a < upCounter j ∨ cntn ≤ a := by omega
      split
      · rw [ih _ _ h', Store.read_write_other _ _ (by omega)]
      · exact ih _ _ h'
    · rfl

/-! ### The step -/

/-- A step with an allowed configuration, by what the host sent. -/
theorem step_of_fetch {s : State} (h : s.cfg.wf = true) :
    (s.inbox = [] ∧ step s = .next s) ∨
    (∃ rest, s.inbox = .reset :: rest ∧ step s = .next ({ s with inbox := rest } : State).applyReset) ∨
    (∃ w rest i, s.inbox = .command w :: rest ∧ decode w = .ok i ∧ step s = exec i { s with inbox := rest }) ∨
    (∃ w rest e, s.inbox = .command w :: rest ∧ decode w = .error e ∧
      step s = .next ({ s with inbox := rest } : State).answerIllegal) := by
  unfold step fetch
  rw [if_pos h]
  cases hi : s.inbox with
  | nil => exact .inl ⟨rfl, rfl⟩
  | cons x rest =>
    cases x with
    | reset => exact .inr (.inl ⟨rest, rfl, rfl⟩)
    | command w =>
      cases hd : decode w with
      | ok i => exact .inr (.inr (.inl ⟨w, rest, i, rfl, hd, by simp [hd]⟩))
      | error e => exact .inr (.inr (.inr ⟨w, rest, e, rfl, hd, by simp [hd]⟩))

end Sys2Proof.Machine
end

