-- ==== Sys2Proof/Laws/PerInstr.lean ====
section
/-! SUPPORT. Statements about every command as syntax, one lemma per constructor. -/

namespace Sys2Proof.Laws

/-- R71, R72, R76, R78: the word that spells a command carries its opcode, `RSV` 0 and 0 in every unused operand field. -/
def EncodedFields.Statement (i : Instr) : Prop :=
  i.wf = true ∧ fieldsOf (encode i) = i.fields ∧ i.fields.op = i.opcode ∧ i.fields.rsv = 0 ∧ i.fields.wf = true

theorem EncodedFields.new (start segmentSize wheelCapacity : Word64) :
    EncodedFields.Statement (.new start segmentSize wheelCapacity) := ⟨rfl, fieldsOf_wordOf _, rfl, rfl, rfl⟩

theorem EncodedFields.segsz : EncodedFields.Statement .segsz := ⟨rfl, fieldsOf_wordOf _, rfl, rfl, rfl⟩

theorem EncodedFields.count (startBit stopBit : Word64) : EncodedFields.Statement (.count startBit stopBit) :=
  ⟨rfl, fieldsOf_wordOf _, rfl, rfl, rfl⟩

theorem EncodedFields.presieve (c low high : Word64) : EncodedFields.Statement (.presieve c low high) :=
  ⟨rfl, fieldsOf_wordOf _, rfl, rfl, rfl⟩

theorem EncodedFields.crossoff (i p : Word64) : EncodedFields.Statement (.crossoff i p) :=
  ⟨rfl, fieldsOf_wordOf _, rfl, rfl, rfl⟩

theorem EncodedFields.cntfinit : EncodedFields.Statement .cntfinit := ⟨rfl, fieldsOf_wordOf _, rfl, rfl, rfl⟩

theorem EncodedFields.cntunset (k : Word64) : EncodedFields.Statement (.cntunset k) :=
  ⟨rfl, fieldsOf_wordOf _, rfl, rfl, rfl⟩

theorem EncodedFields.cntquery (k : Word64) : EncodedFields.Statement (.cntquery k) :=
  ⟨rfl, fieldsOf_wordOf _, rfl, rfl, rfl⟩

theorem EncodedFields.crossoffc (i p : Word64) : EncodedFields.Statement (.crossoffc i p) :=
  ⟨rfl, fieldsOf_wordOf _, rfl, rfl, rfl⟩

end Sys2Proof.Laws
end

