-- ==== Sys2Proof/Tests/Slice0.lean ====
section
/-! SUPPORT. Tests. Expected values come from spec/ (the rule, table or vector is named at each); the witnesses show states
and operands that meet the hypotheses of the statements. -/

-- Many small proofs by evaluation: one after another, so that the compiler does not open a thread for each at once.
set_option Elab.async false

namespace Sys2Proof.Tests

open Sys2Proof Sys2Proof.Machine

/-! ### Helpers: small states built from the state after reset -/

/-- The next state of an outcome. -/
def next? (o : Host.Outcome State Fault Refusal) : Option State :=
  match o with
  | .next t => some t
  | .fault _ => none
  | .refused _ => none

/-- Eight sieve bytes. -/
def eight (b0 b1 b2 b3 b4 b5 b6 b7 : Byte) : Memory :=
  [(0, b0), (1, b1), (2, b2), (3, b3), (4, b4), (5, b5), (6, b6), (7, b7)]

/-- As after `NEW 0, 240, 8` (95_test_vectors.md V2), `CNTN` apart. -/
def created : State := { State.reset with created := true, size := 8, wcap := 8, wcnt := 4 }

/-- As after `NEW 0, 480, 8` (V5). -/
def created16 : State := { created with size := 16 }

/-- As after `NEW 0, 240, 8; PRESIEVE 3, 0, 240` (T3). -/
def fresh : State :=
  { created with sieveValid := true, primed := true, bytes := eight 0xFF 0xFF 0xFF 0xFF 0xFF 0xFF 0xFF 0xFF }

/-- As after `NEW 480, 240, 8; PRESIEVE 3, 480, 720` (T4). -/
def fresh480 : State := { fresh with start := 480 }

/-- As after `NEW 0, 240, 8; PRESIEVE 4, 0, 240` (V5, V8): 55 live bits. -/
def sieved7 : State :=
  { fresh with wcnt := 5, bytes := eight 0xFD 0xDF 0xEF 0x7E 0xF7 0xFB 0xBF 0xFD, wheel := [(4, ⟨0, 9⟩)] }

/-- As after `NEW 0,240,8; PRESIEVE 3,0,240; CROSSOFF 4,7; PRESIEVE 3,240,480` (V7, row 1). -/
def carried : State := { fresh with start := 240, wcnt := 5, wheel := [(4, ⟨0, 9⟩)] }

/-- The counters of state F (V8). -/
def countersF : List Nat :=
  [1, 1, 1, 3, 1, 2, 1, 7, 1, 2, 1, 4, 1, 1, 1, 14, 1, 2, 1, 4, 0, 1, 1, 7, 0, 1, 1, 3, 1, 2, 1, 27,
   1, 2, 1, 3, 1, 2, 1, 7, 1, 2, 0, 3, 1, 2, 1, 14, 1, 2, 1, 4, 1, 2, 0, 7, 1, 1, 1, 3, 1, 2, 1, 55]

/-- State F of V8: `NEW 0,240,8; PRESIEVE 4,0,240; CNTFINIT`. -/
def stateF : State :=
  { sieved7 with
    cntValid := true, cntn := 64
    cnt := (List.range 64).map fun j => (j, BitVec.ofNat 64 (countersF.getD j 0)) }

/-- `fresh` with a fault taken (V10): cause 2. -/
def faulted : State := { fresh with fault := true, cause := 2 }

/-! ### WellFormed: an ill-formed term for each check -/

theorem test_config_vectors_wf : Config.testVectors.wf = true := by decide
theorem test_config_bytes_not_multiple : (({ Config.testVectors with maxBytes := 60, maxCnt := 480 } : Config).wf) = false := by decide
theorem test_config_bytes_zero : (({ Config.testVectors with maxBytes := 0, maxCnt := 0 } : Config).wf) = false := by decide
theorem test_config_bytes_too_many :
    (({ Config.testVectors with maxBytes := 2 ^ 32, maxCnt := 8 * 2 ^ 32 } : Config).wf) = false := by decide
theorem test_config_wheel_too_small : (({ Config.testVectors with maxWheel := 3 } : Config).wf) = false := by decide
theorem test_config_wheel_too_large : (({ Config.testVectors with maxWheel := 2 ^ 32 + 1 } : Config).wf) = false := by decide
theorem test_config_counters_mismatch : (({ Config.testVectors with maxCnt := 511 } : Config).wf) = false := by decide
theorem test_config_primes_too_few : (({ Config.testVectors with primes := [0, 2, 3, 5] } : Config).wf) = false := by decide
theorem test_fields_unknown_op : (CommandFields.wf ⟨0x06, 0, 0, 0, 0⟩) = false := by decide
theorem test_fields_reserved : (CommandFields.wf ⟨0x01, 1, 0, 240, 8⟩) = false := by decide
theorem test_fields_unused_a : (CommandFields.wf ⟨0x02, 0, 1, 0, 0⟩) = false := by decide
theorem test_fields_unused_b : (CommandFields.wf ⟨0x12, 0, 0, 1, 0⟩) = false := by decide
theorem test_fields_unused_c : (CommandFields.wf ⟨0x03, 0, 0, 0xEF, 1⟩) = false := by decide

/-! ### Decode: the words of 95_test_vectors.md V1, written out from R71 -/

theorem test_decode_new :
    decode 0x0000000000000008_00000000000000F0_0000000000000000_0000000000000001 = .ok (.new 0 240 8) := rfl
theorem test_decode_segsz :
    decode 0x0000000000000000_0000000000000000_0000000000000000_0000000000000002 = .ok .segsz := rfl
theorem test_decode_count :
    decode 0x0000000000000000_00000000000000EF_0000000000000000_0000000000000003 = .ok (.count 0 239) := rfl
theorem test_decode_presieve :
    decode 0x00000000000000F0_0000000000000000_0000000000000007_0000000000000004 = .ok (.presieve 7 0 240) := rfl
theorem test_decode_crossoff :
    decode 0x0000000000000000_0000000000000013_0000000000000008_0000000000000005 = .ok (.crossoff 8 19) := rfl
theorem test_decode_cntfinit :
    decode 0x0000000000000000_0000000000000000_0000000000000000_0000000000000010 = .ok .cntfinit := rfl
theorem test_decode_cntunset :
    decode 0x0000000000000000_0000000000000000_0000000000000000_0000000000000011 = .ok (.cntunset 0) := rfl
theorem test_decode_cntquery :
    decode 0x0000000000000000_0000000000000000_000000000000003F_0000000000000012 = .ok (.cntquery 63) := rfl
theorem test_decode_crossoffc :
    decode 0x0000000000000000_000000000000000B_0000000000000005_0000000000000013 = .ok (.crossoffc 5 11) := rfl

/-- The illegal words of V1. -/
theorem test_decode_illegal :
    decode 0 = .error (.unknownOpcode 0) ∧ decode 0x06 = .error (.unknownOpcode 6) ∧
    decode 0x14 = .error (.unknownOpcode 0x14) ∧ decode 0xFF = .error (.unknownOpcode 0xFF) ∧
    decode 0x0000000000000008_00000000000000F0_0000000000000000_0000000000000101 = .error .reservedNotZero ∧
    decode 0x0000000000000000_0000000000000000_0000000000000001_0000000000000002 = .error .unusedOperandNotZero ∧
    decode 0x0000000000000001_00000000000000EF_0000000000000000_0000000000000003 = .error .unusedOperandNotZero ∧
    decode 0x0000000000000000_0000000000000001_0000000000000000_0000000000000012 = .error .unusedOperandNotZero ∧
    decode 0x8000000000000000_0000000000000000_0000000000000000_0000000000000010 = .error .unusedOperandNotZero :=
  ⟨rfl, rfl, rfl, rfl, rfl, rfl, rfl, rfl, rfl⟩

/-- R81, the worked encoding, and the same word through the table-word entry. -/
theorem test_encode_presieve :
    encode (.presieve 7 0 240) = 0x00000000000000F0_0000000000000000_0000000000000007_0000000000000004 := by decide
theorem test_table_word :
    decodeTableWord 256 0x00000000000000F0_0000000000000000_0000000000000007_0000000000000004 =
      some (.presieve 7 0 240) := rfl

/-- The masks of opcode_table.json for COUNT and CNTUNSET (R77). -/
theorem test_masks :
    (opcodeRows.map OpcodeRow.mask)[2]? =
        some 0xFFFFFFFFFFFFFFFF_0000000000000000_0000000000000000_FFFFFFFFFFFFFFFF ∧
      (opcodeRows.map OpcodeRow.mask)[6]? =
        some 0xFFFFFFFFFFFFFFFF_FFFFFFFFFFFFFFFF_0000000000000000_FFFFFFFFFFFFFFFF := by decide

/-- R80's notation. -/
theorem test_render : renderCommand (.presieve 7 0 240) = "PRESIEVE 7, 0, 240" := by decide

/-- 30_encoding.md R80: separators, hexadecimal, comments and expected responses. -/
theorem test_read_program :
    readProgram ("NEW 0, 240, 9 -> ok; SEGSZ -> 240".toList ++ '\n' :: "COUNT 0, 0xF0 -> fault(RANGE) -- x; y".toList) =
      some [(.new 0 240 9, some .ok), (.segsz, some (.result 240)), (.count 0 240, some (.fault .range))] := by decide

/-! ### Meanings: one step each -/

/-- V2: `NEW 0, 240, 0` gives WCAP 4, WCNT 4, SIZE 8. -/
theorem test_new_minimal_wheel :
    (next? (exec (.new 0 240 0) State.reset)).map (fun t => (t.wcap, t.wcnt, t.size, t.responses)) =
      some (4, 4, 8, [okWord 0]) := by decide

/-- R6, R90: with MAX_WHEEL = 2^32 a capacity of 2^32 is accepted, `WCAP` stands for it, and entry 4 can be added. -/
theorem test_new_full_wheel :
    let big : State := State.afterReset { Config.testVectors with maxWheel := 2 ^ 32 }
    (next? (exec (.new 0 240 4294967296) big)).map (fun t => (t.wheelCapacity, t.wheelCount, t.fault)) =
        some (2 ^ 32, 4, false) ∧
      (next? (exec (.crossoff 4 7) { fresh with wcap := BitVec.ofNat 32 (2 ^ 32) })).map (fun t => (t.wheelCount, t.fault)) =
        some (5, false) := by decide

/-- V2: `NEW 18446744073709551600, 240, 8` faults with OPERAND: the sum does not wrap. -/
theorem test_new_sum_does_not_wrap :
    (next? (exec (.new 18446744073709551600 240 8) State.reset)).map (fun t => (t.fault, t.cause, t.created)) =
      some (true, 5, false) := by decide

/-- V3: `NEW 0,480,8; SEGSZ -> 480`. -/
theorem test_segsz_480 : (next? (exec .segsz created16)).map (fun t => t.responses) = some [okWord 480] := by decide

/-- V3: SEGSZ from reset faults with STATE; the response word of V10. -/
theorem test_segsz_before_new :
    (next? (exec .segsz State.reset)).map (fun t => (t.cause, t.responses)) =
      some (2, [0x0000000000000000_0000000000000201]) := by decide

/-- V5: after `PRESIEVE 4, 0, 240`, `COUNT 0, 239 -> 55`. -/
theorem test_count_whole : (next? (exec (.count 0 239) sieved7)).map (fun t => t.responses) = some [okWord 55] := by decide

/-- V4: `COUNT 0, 240 -> fault(RANGE)`, and `A > B` wins over the range check. -/
theorem test_count_range :
    (next? (exec (.count 0 240) fresh)).map (fun t => t.cause) = some 4 ∧
      (next? (exec (.count 241 240) fresh)).map (fun t => t.responses) = some [okWord 0] := by decide

/-- V5: `PRESIEVE 4, 0, 100` after `NEW 0, 480, 8`. -/
theorem test_presieve_shortens :
    (next? (exec (.presieve 4 0 100) created16)).map (fun t => (t.size, t.bytes, t.wheel)) =
      some (8, eight 0xFD 0xDF 0xEF 0x02 0x00 0x00 0x00 0x00, [(4, ⟨0, 9⟩)]) := by decide

/-- V5: a second PRESIEVE must start where the first ended. -/
theorem test_presieve_consecutive :
    (next? (exec (.presieve 3 0 240) fresh)).map (fun t => t.cause) = some 5 ∧
      (next? (exec (.presieve 3 240 480) fresh)).map (fun t => (t.start, t.cause)) = some (240, 0) := by decide

/-- R137: the trace of `CROSSOFF 4, 7`. -/
theorem test_crossoff_7 :
    (next? (exec (.crossoff 4 7) fresh)).map (fun t => (t.bytes, t.wheel, t.wcnt, t.responses)) =
      some (eight 0xFD 0xDF 0xEF 0x7E 0xF7 0xFB 0xBF 0xFD, [(4, ⟨0, 9⟩)], 5, [okWord 9]) := by decide

/-- T4, row p = 29: `add_wheel` with START 480. -/
theorem test_crossoff_29_from_480 :
    (next? (exec (.crossoff 4 29) fresh480)).map (fun t => (t.bytes, t.wheel, t.responses)) =
      some (eight 0xF7 0xFF 0xFB 0xFF 0xFF 0xFF 0xFD 0xFF, [(4, ⟨4, 63⟩)], [okWord 3]) := by decide

/-- V8: the counters CNTFINIT makes. -/
theorem test_cntfinit_counters :
    (next? (exec .cntfinit sieved7)).map (fun t => (t.cntn, t.cnt)) = some (64, stateF.cnt) := by decide +kernel

/-- V10: CNTFINIT before PRESIEVE faults with STATE. -/
theorem test_cntfinit_before_presieve :
    (next? (exec .cntfinit created)).map (fun t => (t.cause, t.cntValid)) = some (2, false) := by decide

/-- V9: `CNTUNSET 0 -> 1` clears the integer 1 and decrements counters 0, 1, 3, 7, 15, 31, 63. -/
theorem test_cntunset_live :
    (next? (exec (.cntunset 0) stateF)).map (fun t =>
        (t.responses, [0, 1, 2, 3, 7, 15, 31, 63].map fun j => Store.read t.cnt j)) =
      some ([okWord 1], [some 0, some 0, some 1, some 2, some 6, some 13, some 26, some 54]) := by decide +kernel

/-- V9: `CNTUNSET 1 -> 0`: the integer 7 is dead already. -/
theorem test_cntunset_dead :
    (next? (exec (.cntunset 1) stateF)).map (fun t => (t.responses, t.bytes)) = some ([okWord 0], stateF.bytes) := by
  decide +kernel

/-- V8: `CNTQUERY 62 -> 54`, six counters read. -/
theorem test_cntquery_62 :
    (next? (exec (.cntquery 62) stateF)).map (fun t => t.responses) = some [okWord 54] := by decide +kernel

/-- V8: `CNTQUERY 64 -> fault(RANGE)`. -/
theorem test_cntquery_range :
    (next? (exec (.cntquery 64) stateF)).map (fun t => t.cause) = some 4 := by decide

/-- R159: `CROSSOFFC 5, 11` from state F (the integer 1 still live): 11, 121, 143, 187 and 209 die, 77 was dead. -/
theorem test_crossoffc_11 :
    (next? (exec (.crossoffc 5 11) stateF)).map (fun t => (t.responses, t.bytes, t.cntValid)) =
        some ([okWord 5], eight 0xF9 0xDF 0xEF 0x7E 0xB6 0xFB 0x3D 0xFD, true) ∧
      (next? (exec (.crossoffc 5 11) stateF)).map (fun t => (Store.read t.wheel 5, Store.read t.cnt 63)) =
        some (some ⟨0, 22⟩, some 50) := by decide +kernel

/-- V9: `CROSSOFFC 6, 13 -> fault(RANGE)`: WCNT is 5. -/
theorem test_crossoffc_range :
    (next? (exec (.crossoffc 6 13) stateF)).map (fun t => t.cause) = some 4 := by decide

/-! ### The step -/

/-- The first command after reset is the one withFetchWord places; V1. -/
theorem test_step_new :
    (next? (step (State.reset.withFetchWord 256 (encode (.new 0 240 8)).toNat))).map
        (fun t => (t.created, t.size, t.cidx, t.inbox)) = some (true, 8, 1, []) := by decide

/-- V1: an illegal word, from a state with `FAULT = 0`: the response word `...0101`. -/
theorem test_step_illegal :
    (next? (step (State.reset.withFetchWord 256 0xFF))).map (fun t => (t.fault, t.cause, t.responses)) =
      some (true, 1, [0x0000000000000000_0000000000000101]) := by decide

/-- V10: after a fault even an illegal word answers the first cause. -/
theorem test_step_sticky :
    (next? (step (faulted.withFetchWord 256 0xFF))).map (fun t => (t.cause, t.responses)) =
      some (2, [0x0000000000000000_0000000000000201]) := by decide

/-- R190: the reset input clears FAULT and CAUSE. -/
theorem test_step_reset :
    (next? (step { faulted with inbox := [.reset] })).map (fun t => (t.fault, t.cause, t.created)) =
      some (false, 0, false) := by decide

/-! ### Tables -/

/-- R53, R51: the eight bytes of state F's sieve as a little-endian number. -/
theorem test_word_view : memRead sieved7.bytes 8 0 8 = some 0xFDBFFBF77EEFDFFD := by decide

/-! ### Witnesses: states that meet the invariant -/

/-- The invariant from its parts, for a concrete state. -/
theorem inv_of_parts {s : State}
    (h : s.cfg.wf = true ∧ s.cidx = s.responses.length ∧ (s.cause = 0 ↔ s.fault = false) ∧ s.cause.toNat ≤ 5 ∧
      (s.sieveValid = true → s.created = true) ∧ s.primed = s.sieveValid ∧ (s.cntValid = true → s.sieveValid = true))
    (hr : s.created = true →
      s.start.toNat % 30 = 0 ∧ s.start.toNat < 2 ^ 63 ∧ s.size.toNat % 8 = 0 ∧ 8 ≤ s.size.toNat ∧
      s.size.toNat ≤ s.cfg.maxBytes ∧ 4 ≤ s.wheelCount ∧ s.wheelCount ≤ s.wheelCapacity ∧ s.wheelCapacity ≤ s.cfg.maxWheel)
    (hm : s.bytes.map Prod.fst = (if s.sieveValid then List.range s.size.toNat else []) ∧
      s.wheel.map Prod.fst = (if s.created then List.range' 4 (s.wheelCount - 4) else []) ∧
      ∀ x ∈ s.wheel, x.2.idx.toNat < 64)
    (hc : Store.wf s.cnt ∧ (s.cntValid = true →
      s.cntn.toNat = 8 * s.size.toNat ∧ Store.covers s.cnt s.cntn.toNat = true)) : s.Inv :=
  ⟨h.1, h.2.1, h.2.2.1, h.2.2.2.1, h.2.2.2.2.1, h.2.2.2.2.2.1, h.2.2.2.2.2.2, hr, hm.1, hm.2.1, hm.2.2, hc.1, hc.2⟩

theorem test_reset_inv : State.reset.Inv := inv_of_parts (by decide) (by decide) (by decide) (by decide)
theorem test_created_inv : created.Inv := inv_of_parts (by decide) (by decide) (by decide) (by decide)
theorem test_created16_inv : created16.Inv := inv_of_parts (by decide) (by decide) (by decide) (by decide)
theorem test_fresh_inv : fresh.Inv := inv_of_parts (by decide) (by decide) (by decide) (by decide)
theorem test_carried_inv : carried.Inv := inv_of_parts (by decide) (by decide) (by decide) (by decide)
theorem test_sieved7_inv : sieved7.Inv := inv_of_parts (by decide) (by decide) (by decide) (by decide)
theorem test_faulted_inv : faulted.Inv := inv_of_parts (by decide) (by decide) (by decide) (by decide)
theorem test_stateF_inv : stateF.Inv := inv_of_parts (by decide) (by decide) (by decide) (by decide +kernel)

/-- State F's counters are consistent with its bits. -/
theorem test_stateF_consistent : stateF.treeConsistent := by
  have h : ∀ j, j < 64 → (Store.read stateF.cnt j).map BitVec.toNat =
      some ((Finset.Icc (lo j) j).filter fun pos => live stateF.bytes pos = true).card := by decide +kernel
  intro j hj
  have hv := h j hj
  cases hr : Store.read stateF.cnt j with
  | none => simp [hr] at hv
  | some v => exact ⟨v, rfl, by simpa [hr] using hv⟩

/-- A state with one command word waiting. -/
def sending (s : State) (i : Instr) : State := { s with inbox := [.command (encode i)] }

/-- The invariant does not speak of what the host has yet to send. -/
theorem inv_sending {s : State} (h : s.Inv) (i : Instr) : (sending s i).Inv :=
  ⟨h.1, h.2, h.3, h.4, h.5, h.6, h.7, h.8, h.9, h.10, h.11, h.12, h.13⟩

/-- Entry `(0, 9)` tracks 7 from START 240 on: its next multiple is 7 * 37 = 259 (R137). -/
theorem test_entry_tracks_7 : tracks 240 ⟨0, 9⟩ 7 := by
  refine ⟨37, by unfold namesMultiple; decide, fun w' hw h => ?_⟩
  by_contra hlt
  have h35 : w' = 35 ∨ w' = 36 := by omega
  rcases h35 with rfl | rfl <;> revert hw <;> decide

/-! ### Witnesses: the hypotheses of each statement are met together -/

theorem test_witness_DecodeEncodeRoundTrip : (Instr.presieve 7 0 240).wf = true := rfl
theorem test_witness_EncodeDecodeExact : decode 0x02 = .ok .segsz := rfl
theorem test_witness_DecodeAgreesWithOpcodeMap :
    decode 0x02 = .ok .segsz ∧ ∃ r ∈ opcodeRows, r.spells 0x02 = true :=
  ⟨rfl, ⟨"SEGSZ", BitVec.allOnes 256, 0x02⟩, by decide, by decide⟩
theorem test_witness_IllegalWordRaisesIllegal :
    fresh.cfg.wf = true ∧ ({ fresh with inbox := [.command 0] } : State).inbox = .command 0 :: [] ∧
      decode 0 = .error (.unknownOpcode 0) ∧ fresh.fault = false := ⟨by decide, rfl, rfl, rfl⟩
theorem test_witness_SerialisedWordsDecode : ([] : List Byte).length ≠ 32 ∧ ([] : List Byte).length ≠ 16 ∧ 31 < 32 ∧ 15 < 16 := by
  decide
theorem test_witness_StepRunsDecodedCommand :
    (sending fresh .segsz).cfg.wf = true ∧ (sending fresh .segsz).inbox = .command (encode .segsz) :: [] ∧
      decode (encode .segsz) = .ok .segsz := ⟨by decide, rfl, rfl⟩
theorem test_witness_EveryWordIsAnsweredOnce :
    (sending fresh .segsz).Inv ∧ (sending fresh .segsz).inbox = .command (encode .segsz) :: [] :=
  ⟨inv_sending test_fresh_inv _, rfl⟩
theorem test_witness_ResponsesHaveTheFormat :
    (sending fresh .segsz).Inv ∧ (sending fresh .segsz).inbox = .command (encode .segsz) :: [] ∧
      ∃ t, step (sending fresh .segsz) = .next t ∧ t.responses = (sending fresh .segsz).responses ++ [okWord 240] :=
  ⟨inv_sending test_fresh_inv _, rfl, _, rfl, rfl⟩
theorem test_witness_QueuedCommandsAreAllAnswered :
    (sending fresh .segsz).Inv ∧ (sending fresh .segsz).inbox = [encode .segsz].map HostInput.command :=
  ⟨inv_sending test_fresh_inv _, rfl⟩
theorem test_witness_FaultIsSticky :
    (sending faulted .segsz).cfg.wf = true ∧ (sending faulted .segsz).inbox = .command (encode .segsz) :: [] ∧
      (sending faulted .segsz).fault = true := ⟨by decide, rfl, rfl⟩
theorem test_witness_FaultIsSticky_reset :
    ({ faulted with inbox := [.reset] } : State).fault = true ∧ faulted.cfg.wf = true ∧
      ∃ t, step { faulted with inbox := [.reset] } = .next t ∧ t.fault = false := ⟨rfl, by decide, _, rfl, rfl⟩
/-- A step that faults, from a state without a fault, and a run of one illegal word from the state after reset. -/
theorem test_witness_FaultIsSticky_successful :
    ((sending created (.count 0 0)).fault = false ∧
      ∃ t, step (sending created (.count 0 0)) = .next t ∧ t.fault = true) ∧
    ∃ t, Host.Core.run core 1 ((State.afterReset Config.testVectors).send [0]) = .next t ∧ t.fault = true :=
  ⟨⟨rfl, _, rfl, rfl⟩, _, rfl, rfl⟩
theorem test_witness_FaultsArePrecise :
    (sending created (.count 0 0)).fault = false ∧
      (sending created (.count 0 0)).inbox = .command (encode (.count 0 0)) :: [] ∧
      ∃ t, step (sending created (.count 0 0)) = .next t ∧ t.fault = true := ⟨rfl, rfl, _, rfl, rfl⟩
theorem test_witness_CommandsRaiseOnlyTheirCauses :
    created.fault = false ∧ ∃ t, exec .cntfinit created = .next t ∧ t.fault = true := ⟨rfl, _, rfl, rfl⟩
theorem test_witness_CommandsBeforeNewRaiseState :
    State.reset.fault = false ∧ State.reset.created = false ∧ ∀ a b c, Instr.segsz ≠ .new a b c :=
  ⟨rfl, rfl, fun _ _ _ h => by cases h⟩
theorem test_witness_ResetInputClearsFlags :
    faulted.cfg.wf = true ∧ ({ faulted with inbox := [.reset] } : State).inbox = .reset :: [] := ⟨by decide, rfl⟩
theorem test_witness_IdleBlockHoldsItsState : fresh.cfg.wf = true ∧ fresh.inbox = [] := ⟨by decide, rfl⟩
theorem test_witness_BadConfigurationIsRefused : (({ Config.testVectors with maxWheel := 3 } : Config).maxWheel) < 4 := by
  decide

/-- One operand triple for each clause of NEW's checks: a START of 15 or a size of 120; 0 and 2160; 33 entries; 2^63 - 8. -/
theorem test_witness_NewFaultsInOrder :
    State.reset.fault = false ∧ (15 : Word64).toNat % 30 ≠ 0 ∧
      ((0 : Word64).toNat % 30 = 0 ∧ (120 : Word64).toNat % 240 ≠ 0) ∧
      ((0 : Word64).toNat % 240 = 0 ∧ (0 : Word64).toNat < 240) ∧
      ((2160 : Word64).toNat % 240 = 0 ∧ State.reset.cfg.maxBytes < (2160 : Word64).toNat / 30) ∧
      ((240 : Word64).toNat % 240 = 0 ∧ 240 ≤ (240 : Word64).toNat ∧ (240 : Word64).toNat / 30 ≤ State.reset.cfg.maxBytes ∧
        State.reset.cfg.maxWheel < (33 : Word64).toNat) ∧
      ((9223372036854775800 : Word64).toNat % 30 = 0 ∧ (32 : Word64).toNat ≤ State.reset.cfg.maxWheel ∧
        2 ^ 63 < (9223372036854775800 : Word64).toNat + (240 : Word64).toNat) := by decide
/-- `NEW 2^63 - 248, 240, 32`: the largest START and capacity. -/
theorem test_witness_NewCreatesTheSieve :
    State.reset.cfg.wf = true ∧ State.reset.fault = false ∧ (9223372036854775560 : Word64).toNat % 30 = 0 ∧
      (240 : Word64).toNat % 240 = 0 ∧ 240 ≤ (240 : Word64).toNat ∧
      (240 : Word64).toNat / 30 ≤ State.reset.cfg.maxBytes ∧ (32 : Word64).toNat ≤ State.reset.cfg.maxWheel ∧
      (9223372036854775560 : Word64).toNat + (240 : Word64).toNat ≤ 2 ^ 63 := by decide
theorem test_witness_NewIsAsIfAfterReset :
    stateF.fault = false ∧ ∃ t, exec (.new 0 240 8) stateF = .next t ∧ t.fault = false := ⟨rfl, _, rfl, rfl⟩
theorem test_witness_SegszAnswersSegmentSize :
    (created.fault = false ∧ created.created = true ∧ created.Inv) ∧
      State.reset.fault = false ∧ State.reset.created = false := ⟨⟨rfl, rfl, test_created_inv⟩, rfl, rfl⟩
/-- Clause 1 before PRESIEVE; clause 2 at the first offset past the segment. -/
theorem test_witness_CountFaultsInOrder :
    (created.fault = false ∧ created.created = true ∧ created.sieveValid = false) ∧
      (fresh.fault = false ∧ fresh.created = true ∧ fresh.sieveValid = true ∧
        (240 : Word64).toNat ≤ (240 : Word64).toNat ∧ 30 * fresh.size.toNat ≤ (240 : Word64).toNat) := by decide
/-- The last offset of the segment, and an empty interval beyond it. -/
theorem test_witness_CountAnswersLiveInRange :
    fresh.Inv ∧ fresh.fault = false ∧ fresh.sieveValid = true ∧ (239 : Word64).toNat < 30 * fresh.size.toNat ∧
      (240 : Word64).toNat < (241 : Word64).toNat := ⟨test_fresh_inv, by decide⟩
theorem test_witness_CountIsAdditive :
    fresh.Inv ∧ fresh.fault = false ∧ fresh.sieveValid = true ∧ (0 : Word64).toNat ≤ (100 : Word64).toNat ∧
      (100 : Word64).toNat < (239 : Word64).toNat ∧ (239 : Word64).toNat < 30 * fresh.size.toNat :=
  ⟨test_fresh_inv, by decide⟩
theorem test_witness_CountIsARangeOfPositions : (0 : Nat) ≤ 239 ∧ 239 < 30 * 8 := by decide

/-- A witness for each clause of PRESIEVE's checks 1 to 5, from `NEW 0, 240, 8` (V5). -/
theorem test_witness_PresieveFaultsInOrder_1_to_5 :
    (created.fault = false ∧ created.created = true) ∧ (7 : Word64).toNat % 30 ≠ 0 ∧
      ((30 : Word64).toNat % 30 = 0 ∧ (30 : Word64).toNat ≤ (30 : Word64).toNat) ∧
      ((0 : Word64).toNat < (9223372036854775809 : Word64).toNat ∧ 2 ^ 63 < (9223372036854775809 : Word64).toNat) ∧
      ((241 : Word64).toNat ≤ 2 ^ 63 ∧ 30 * created.size.toNat < (241 : Word64).toNat - (0 : Word64).toNat) ∧
      ((240 : Word64).toNat - (30 : Word64).toNat ≤ 30 * created.size.toNat ∧ created.primed = false ∧
        (30 : Word64).toNat ≠ created.start.toNat) ∧
      (fresh.primed = true ∧ (0 : Word64).toNat ≠ fresh.start.toNat + 30 * fresh.size.toNat) := by decide
/-- Check 6 at `c = WCAP` and at `c = PRIMES_LEN`; check 7 where entry 4 was made for 11 and `primes[4]` is 7. -/
theorem test_witness_PresieveFaultsInOrder_6_and_7 :
    (4 ≤ (8 : Word64).toNat ∧ created.wheelCapacity ≤ (8 : Word64).toNat ∧ created.primed = false ∧
        (0 : Word64).toNat = created.start.toNat) ∧
      created.cfg.primesLen ≤ (26 : Word64).toNat ∧
      ((4 : Word64).toNat < carried.cfg.primesLen ∧ (4 : Word64).toNat < carried.wheelCapacity ∧ carried.primed = true ∧
        (480 : Word64).toNat = carried.start.toNat + 30 * carried.size.toNat ∧
        carried.cfg.primes[4]? = some 7 ∧ 4 < carried.wheelCount ∧
        Store.read ({ carried with wheel := [(4, ⟨0, 22⟩)] } : State).wheel 4 = some ⟨0, 22⟩ ∧
        (⟨0, 22⟩ : WheelEntry).idx.toNat / 8 ≠ cls (7 % 30)) := by decide

theorem presievable_of {s : State} {c low high : Nat}
    (h : low % 30 = 0 ∧ low < high ∧ high ≤ 2 ^ 63 ∧ high - low ≤ 30 * s.size.toNat ∧
      ((s.primed = false ∧ low = s.start.toNat) ∨ (s.primed = true ∧ low = s.start.toNat + 30 * s.size.toNat)) ∧
      (4 ≤ c → c < s.cfg.primesLen ∧ c < s.wheelCapacity))
    (h7 : ∀ i, i < c + 1 → 4 ≤ i → s.tablePrimeFits i = true) : s.presievable c low high := by
  refine ⟨h.1, h.2.1, h.2.2.1, h.2.2.2.1, h.2.2.2.2.1, h.2.2.2.2.2, fun i p h4 hic hp => ?_⟩
  have hf := h7 i (by omega) h4
  simp only [State.tablePrimeFits, hp, Bool.and_eq_true, sievingOperand, decide_eq_true_eq, inW,
    List.contains_iff_mem, State.classAgrees] at hf
  refine ⟨hf.1.1.1, hf.1.1.2, hf.1.2, fun e hi he => ?_⟩
  simpa [hi, he] using hf.2

theorem test_presievable_first : created16.presievable 7 0 480 := presievable_of (by decide) (by decide)
theorem test_presievable_next : sieved7.presievable 4 240 480 := presievable_of (by decide) (by decide)
theorem test_presievable_none : created16.presievable 3 0 241 := presievable_of (by decide) (by decide)

theorem test_witness_PresieveOpensTheSegment :
    created16.Inv ∧ created16.fault = false ∧ created16.created = true ∧
      created16.presievable (7 : Word64).toNat (0 : Word64).toNat (480 : Word64).toNat :=
  ⟨test_created16_inv, rfl, rfl, test_presievable_first⟩
theorem test_witness_PresieveBelowFourCrossesNothing :
    created16.Inv ∧ created16.fault = false ∧ created16.created = true ∧ (3 : Word64).toNat < 4 ∧
      created16.presievable (3 : Word64).toNat (0 : Word64).toNat (241 : Word64).toNat :=
  ⟨test_created16_inv, rfl, rfl, by decide, test_presievable_none⟩

theorem wheelTracks_created16 (c start : Nat) : created16.wheelTracks c start := by
  intro i e _ _ h; cases h

theorem test_sieved7_tracks : sieved7.wheelTracks 4 240 := by
  intro i e _ _ h
  have hr : Store.read sieved7.wheel i = if 4 = i then some ⟨0, 9⟩ else none := rfl
  rw [hr] at h
  split at h
  · subst_vars
    cases h
    exact ⟨7, rfl, test_entry_tracks_7⟩
  · cases h

/-- `sieved7` with an entry 5 above the `c` of the next PRESIEVE, whatever it holds. -/
def sieved7above : State := { sieved7 with wcnt := 6, wheel := [(4, ⟨0, 9⟩), (5, ⟨1, 19⟩)] }

theorem test_sieved7above_inv : sieved7above.Inv := inv_of_parts (by decide) (by decide) (by decide) (by decide)
theorem test_presievable_above : sieved7above.presievable 4 240 480 := presievable_of (by decide) (by decide)

theorem test_sieved7above_tracks : sieved7above.wheelTracks 4 240 := by
  intro i e h4 hc h
  have : i = 4 := by omega
  subst this
  cases h
  exact ⟨7, rfl, test_entry_tracks_7⟩

/-- A first segment with no entry yet, a second one with entry 4 carried, and one with an entry above `c`. -/
theorem test_witness_PresieveSievesExactly :
    (created16.Inv ∧ created16.fault = false ∧ created16.created = true ∧ 4 ≤ (7 : Word64).toNat ∧
      created16.presievable (7 : Word64).toNat (0 : Word64).toNat (480 : Word64).toNat ∧
      created16.wheelTracks (7 : Word64).toNat (0 : Word64).toNat) ∧
    (sieved7.Inv ∧ sieved7.fault = false ∧ sieved7.created = true ∧ 4 ≤ (4 : Word64).toNat ∧
      sieved7.presievable (4 : Word64).toNat (240 : Word64).toNat (480 : Word64).toNat ∧
      sieved7.wheelTracks (4 : Word64).toNat (240 : Word64).toNat) ∧
    (sieved7above.Inv ∧ sieved7above.fault = false ∧ sieved7above.created = true ∧ 4 ≤ (4 : Word64).toNat ∧
      sieved7above.presievable (4 : Word64).toNat (240 : Word64).toNat (480 : Word64).toNat ∧
      sieved7above.wheelTracks (4 : Word64).toNat (240 : Word64).toNat) :=
  ⟨⟨test_created16_inv, rfl, rfl, by decide, test_presievable_first, wheelTracks_created16 _ _⟩,
    ⟨test_sieved7_inv, rfl, rfl, by decide, test_presievable_next, test_sieved7_tracks⟩,
    test_sieved7above_inv, rfl, rfl, by decide, test_presievable_above, test_sieved7above_tracks⟩

/-- A first segment, and one whose entry 5 is stale and crossed. -/
theorem test_witness_PresieveIsPresieveThreeThenCrossoffs :
    (created16.Inv ∧ created16.fault = false ∧ created16.created = true ∧
      created16.presievable (7 : Word64).toNat (0 : Word64).toNat (480 : Word64).toNat) ∧
    (sieved7above.Inv ∧ sieved7above.fault = false ∧ sieved7above.created = true ∧
      sieved7above.presievable (5 : Word64).toNat (240 : Word64).toNat (480 : Word64).toNat) :=
  ⟨⟨test_created16_inv, rfl, rfl, test_presievable_first⟩,
    test_sieved7above_inv, rfl, rfl, presievable_of (by decide) (by decide)⟩

/-- A prime table of five entries, the smallest R6 allows. -/
def smallTable : Config := { Config.testVectors with primes := [0, 2, 3, 5, 7] }

theorem test_smallTable_contract : primesContract smallTable := by
  intro i h4 hi
  have hi' : i < 5 := hi
  have : i = 4 := by omega
  subst this
  have hn : Nat.nth Nat.Prime 3 = 7 := by
    have h := Nat.nth_count (p := Nat.Prime) (n := 7) (by norm_num)
    have hc : Nat.count Nat.Prime 7 = 3 := by decide
    rwa [hc] at h
  rw [show 4 - 1 = 3 from rfl, hn]
  exact ⟨rfl, by norm_num⟩

/-- `created16` with the small table. -/
def smallCreated : State := { created16 with cfg := smallTable }

theorem test_witness_PresieveLeavesIntegersCoprimeToFirstPrimes :
    smallCreated.Inv ∧ smallCreated.fault = false ∧ smallCreated.created = true ∧ primesContract smallCreated.cfg ∧
      4 ≤ (4 : Word64).toNat ∧
      smallCreated.presievable (4 : Word64).toNat (0 : Word64).toNat (480 : Word64).toNat ∧
      smallCreated.wheelTracks (4 : Word64).toNat (0 : Word64).toNat :=
  ⟨inv_of_parts (by decide) (by decide) (by decide) (by decide), rfl, rfl, test_smallTable_contract, by decide,
    presievable_of (by decide) (by decide), fun i e _ _ h => by cases h⟩

/-- A full segment of 16 bytes, and the size a segment of 241 integers needs. -/
theorem test_witness_PresieveSizeIsLeast :
    (created16.fault = false ∧ created16.Inv ∧ created16.created = true) ∧
      (∃ t, exec (.presieve 3 0 241) created16 = .next t ∧ t.fault = false) ∧ 241 ≤ 30 * 16 :=
  ⟨⟨rfl, test_created16_inv, rfl⟩, ⟨_, rfl, rfl⟩, by decide⟩
theorem test_witness_PresieveMaskIsInTheLastWord : 0 < 239 ∧ 63 < 8 * presieveSize 239 ∧ 239 ≤ offOf 63 := by decide
theorem test_witness_CrossingStepReachesTheNextMultiple :
    1 < 8 ∧ 7 < 8 ∧ 7 % 30 = residue 1 ∧ 29 % 30 = residue 7 ∧ 7 * 29 = 30 * 6 + (residue 1 * residue 7) % 30 := by decide
theorem test_witness_CycleAdvancesByThePrime : 5 < 8 ∧ 7 < 8 ∧ 49 % 30 = residue 5 ∧ 63 < 64 := by decide
theorem test_witness_AddWheelFindsTheFirstMultiple :
    480 % 30 = 0 ∧ 7 ≤ 7 ∧ 7 < 2 ^ 32 ∧ 7 % 30 ∈ W ∧ 4294967291 < 2 ^ 32 ∧ 4294967291 % 30 ∈ W := by decide
theorem test_witness_CrossingLoopEnds :
    7 ≤ 7 ∧ 1 < 8 ∧ 7 % 30 = residue 1 ∧ (⟨fresh.bytes, [], 0, 0, 0⟩ : Crossing).j < 8 ∧ crossFuel 8 ≤ 72 := by decide

/-- A witness for each clause of CROSSOFF's checks: before PRESIEVE; entry 3, entry WCNT + 1, entry WCAP; 5, 9 and 2^32;
entry 4 of class 1 against 11. -/
theorem test_witness_CrossoffFaultsInOrder :
    (created.fault = false ∧ created.created = true ∧ created.sieveValid = false) ∧
      (fresh.sieveValid = true ∧ (3 : Word64).toNat < 4 ∧ fresh.wheelCount < (5 : Word64).toNat ∧
        fresh.wheelCapacity ≤ (8 : Word64).toNat) ∧
      (4 ≤ (4 : Word64).toNat ∧ (4 : Word64).toNat ≤ fresh.wheelCount ∧ (4 : Word64).toNat < fresh.wheelCapacity ∧
        (5 : Word64).toNat < 7 ∧ (9 : Word64).toNat % 30 ∉ W ∧ 2 ^ 32 ≤ (4294967296 : Word64).toNat) ∧
      ((4 : Word64).toNat < carried.wheelCount ∧ (11 : Word64).toNat % 30 ∈ W ∧
        Store.read carried.wheel 4 = some ⟨0, 9⟩ ∧
        (⟨0, 9⟩ : WheelEntry).idx.toNat / 8 ≠ cls ((11 : Word64).toNat % 30)) := by decide

theorem test_fresh_crossable : fresh.crossable 4 7 := by
  refine ⟨by decide, by decide, by decide, by decide, by decide, by decide, fun e h => absurd h (by decide)⟩
theorem test_carried_crossable : carried.crossable 4 7 := by
  refine ⟨by decide, by decide, by decide, by decide, by decide, by decide, fun e _ h => ?_⟩
  cases h; decide
theorem test_stateF_crossable : stateF.crossable 5 11 := by
  refine ⟨by decide, by decide, by decide, by decide, by decide, by decide, fun e h => absurd h (by decide)⟩

theorem test_witness_CrossoffCountsFirstTimeCrossings :
    fresh.Inv ∧ fresh.fault = false ∧ fresh.sieveValid = true ∧ fresh.crossable (4 : Word64).toNat (7 : Word64).toNat :=
  ⟨test_fresh_inv, rfl, rfl, test_fresh_crossable⟩
/-- A new entry and a stored one. -/
theorem test_witness_CrossoffVisitsItsPositions :
    (fresh.Inv ∧ fresh.fault = false ∧ fresh.sieveValid = true ∧
      fresh.crossable (4 : Word64).toNat (7 : Word64).toNat ∧ fresh.entryAt 4 7 = some ⟨0, 8⟩) ∧
    (carried.Inv ∧ carried.fault = false ∧ carried.sieveValid = true ∧
      carried.crossable (4 : Word64).toNat (7 : Word64).toNat ∧ carried.entryAt 4 7 = some ⟨0, 9⟩) :=
  ⟨⟨test_fresh_inv, rfl, rfl, test_fresh_crossable, by decide⟩,
    test_carried_inv, rfl, rfl, test_carried_crossable, by decide⟩
/-- A stored entry that tracks its prime. -/
theorem test_witness_CrossoffRemovesExactlyTheMultiples :
    carried.Inv ∧ carried.fault = false ∧ carried.sieveValid = true ∧
      carried.crossable (4 : Word64).toNat (7 : Word64).toNat ∧
      ∀ e, (4 : Word64).toNat < carried.wheelCount → Store.read carried.wheel (4 : Word64).toNat = some e →
        tracks carried.start.toNat e (7 : Word64).toNat :=
  ⟨test_carried_inv, rfl, rfl, test_carried_crossable, fun e _ h => by cases h; exact test_entry_tracks_7⟩

/-- A witness for each clause; position 64 is the first outside the tree. -/
theorem test_witness_CounterCommandsFaultInOrder :
    (created.fault = false ∧ created.created = true ∧ created.sieveValid = false ∧ created.cntValid = false) ∧
      (fresh.sieveValid = true ∧ fresh.cntValid = false) ∧
      (stateF.fault = false ∧ stateF.created = true ∧ stateF.sieveValid = true ∧ stateF.cntValid = true ∧
        stateF.cntn.toNat ≤ (64 : Word64).toNat) := by decide
theorem test_witness_CntfinitBuildsTheTree : sieved7.Inv ∧ sieved7.fault = false ∧ sieved7.sieveValid = true :=
  ⟨test_sieved7_inv, rfl, rfl⟩
theorem test_witness_UpdateDecrementsTheResponsibleCounters : 63 < 64 ∧ lo 63 ≤ 0 ∧ 0 ≤ 63 := by decide
/-- The last position, live; and position 1, dead. -/
theorem test_witness_CntunsetClearsAndDecrements :
    stateF.Inv ∧ stateF.fault = false ∧ stateF.cntValid = true ∧ (63 : Word64).toNat < stateF.cntn.toNat ∧
      live stateF.bytes (63 : Word64).toNat = true ∧ live stateF.bytes (1 : Word64).toNat = false ∧ stateF.treeConsistent :=
  ⟨test_stateF_inv, rfl, rfl, by decide, by decide, by decide, test_stateF_consistent⟩
theorem test_witness_CntqueryAnswersThePrefixCount :
    stateF.Inv ∧ stateF.fault = false ∧ stateF.cntValid = true ∧ stateF.treeConsistent ∧
      (63 : Word64).toNat < stateF.cntn.toNat :=
  ⟨test_stateF_inv, rfl, rfl, test_stateF_consistent, by decide⟩
theorem test_witness_CntqueryEqualsCount :
    stateF.Inv ∧ stateF.countersConsistent ∧ stateF.fault = false ∧ stateF.cntValid = true ∧
      (63 : Word64).toNat < stateF.cntn.toNat :=
  ⟨test_stateF_inv, fun _ => test_stateF_consistent, rfl, rfl, by decide⟩
/-- A witness for each clause of CROSSOFFC's checks. -/
theorem test_witness_CrossoffcFaultsInOrder :
    (fresh.fault = false ∧ fresh.created = true ∧ fresh.cntValid = false) ∧
      (stateF.fault = false ∧ stateF.created = true ∧ stateF.sieveValid = true ∧ stateF.cntValid = true) ∧
      (stateF.wheelCount < (6 : Word64).toNat ∧ (3 : Word64).toNat < 4 ∧ stateF.wheelCapacity ≤ (8 : Word64).toNat) ∧
      (4 ≤ (5 : Word64).toNat ∧ (5 : Word64).toNat ≤ stateF.wheelCount ∧ (5 : Word64).toNat < stateF.wheelCapacity ∧
        (12 : Word64).toNat % 30 ∉ W) ∧
      ((4 : Word64).toNat < stateF.wheelCount ∧ (11 : Word64).toNat % 30 ∈ W ∧
        Store.read stateF.wheel 4 = some ⟨0, 9⟩ ∧
        (⟨0, 9⟩ : WheelEntry).idx.toNat / 8 ≠ cls ((11 : Word64).toNat % 30)) := by decide
theorem test_witness_CrossoffcIsCrossoffWithCounters :
    stateF.Inv ∧ stateF.fault = false ∧ stateF.cntValid = true ∧
      stateF.crossable (5 : Word64).toNat (11 : Word64).toNat ∧ stateF.treeConsistent :=
  ⟨test_stateF_inv, rfl, rfl, test_stateF_crossable, test_stateF_consistent⟩
/-- The last aligned word of eight bytes, a misaligned one, and one past the end. -/
theorem test_witness_ByteAndWordViewsAgree :
    (7 + 1 ≤ 8 ∧ 0 + 8 ≤ 8 ∧ 0 % 8 = 0 ∧ 2 ^ 64 - 1 < 2 ^ (8 * 8) ∧ (8 < 1 + 8 ∨ (8 = 8 ∧ 1 % 8 ≠ 0))) ∧
      (0 ≤ 7 ∧ 7 < 0 + 8 ∧ 0xAB < 256 ∧ ∃ m', memWrite sieved7.bytes 8 7 1 0xAB = some m' ∧
        memRead m' 8 0 8 = some 0xABBFFBF77EEFDFFD) :=
  ⟨by decide, by decide, by decide, by decide, _, rfl, by decide⟩
theorem test_witness_StepKeepsTheInvariant :
    (sending fresh (.crossoff 4 7)).Inv ∧ ∃ t, step (sending fresh (.crossoff 4 7)) = .next t :=
  ⟨inv_sending test_fresh_inv _, _, rfl⟩
theorem test_witness_ResetMeetsTheInvariant : smallTable.wf = true := by decide
theorem test_witness_StepKeepsCountersConsistent :
    (sending stateF (.cntunset 0)).Inv ∧ (sending stateF (.cntunset 0)).countersConsistent ∧
      ∃ t, step (sending stateF (.cntunset 0)) = .next t :=
  ⟨inv_sending test_stateF_inv _, fun _ => test_stateF_consistent, by
    have h : (next? (step (sending stateF (.cntunset 0)))).isSome = true := by decide +kernel
    cases hs : step (sending stateF (.cntunset 0)) with
    | next t => exact ⟨t, rfl⟩
    | fault r => rw [hs] at h; cases h
    | refused r => rw [hs] at h; cases h⟩
/-- Every flag changes somewhere: NEW and PRESIEVE set theirs, COUNT before PRESIEVE faults. -/
theorem test_witness_FlagsChangeOnlyAsListed :
    (∃ t, exec (.new 0 240 8) State.reset = .next t ∧ t.created ≠ State.reset.created) ∧
      (∃ t, exec (.presieve 3 0 240) created = .next t ∧ t.sieveValid ≠ created.sieveValid ∧ t.primed ≠ created.primed) ∧
      (∃ t, exec (.new 0 240 8) stateF = .next t ∧ t.cntValid ≠ stateF.cntValid) ∧
      (∃ t, exec (.count 0 0) created = .next t ∧ t.fault ≠ created.fault ∧ t.cause ≠ created.cause) :=
  ⟨⟨_, rfl, by decide⟩, ⟨_, rfl, by decide, by decide⟩, ⟨_, rfl, by decide⟩, ⟨_, rfl, by decide, by decide⟩⟩
theorem test_witness_BitsOnlyDieBetweenPresieves :
    (∃ t, exec (.crossoff 4 7) fresh = .next t) ∧ (∀ a b c, Instr.crossoff 4 7 ≠ .new a b c) ∧
      ∀ a b c, Instr.crossoff 4 7 ≠ .presieve a b c :=
  ⟨⟨_, rfl⟩, (fun _ _ _ h => by cases h), (fun _ _ _ h => by cases h)⟩
theorem test_witness_ReadingCommandsChangeNothing :
    (∃ t, exec .segsz fresh = .next t ∧ t.fault = false) ∧ (∃ t, exec (.count 0 239) fresh = .next t ∧ t.fault = false) ∧
      (∃ t, exec (.cntquery 63) stateF = .next t ∧ t.fault = false) ∧
      (∃ t, exec (.cntquery 63) fresh = .next t ∧ t.fault = true) ∧
      ∃ t, exec .segsz faulted = .next t ∧ faulted.fault = true :=
  ⟨⟨_, rfl, rfl⟩, ⟨_, rfl, rfl⟩, ⟨_, rfl, rfl⟩, ⟨_, rfl, rfl⟩, _, rfl, rfl⟩
theorem test_witness_NoStepChangesTheConfiguration : ∃ t, step fresh = .next t := ⟨_, rfl⟩

end Sys2Proof.Tests
end

section
/-! Proofs for 20_memory.md R53: the one-byte and eight-byte views of the sieve memory. Both widths are one read and one
write of `n` consecutive bytes, least significant first; the views agree because a little-endian number determines its
bytes and is determined by them. -/

namespace Sys2Proof.MemoryView

open Sys2Proof Sys2Proof.Machine

/-! ### Little-endian numbers -/

/-- The number whose bytes, least significant first, are `f 0 .. f (n - 1)` (R51). -/
def leNumber (f : Nat → Byte) (n : Nat) : Nat := ∑ t ∈ Finset.range n, (f t).toNat * 2 ^ (8 * t)

/-- Byte `t` of the little-endian form of `v`. -/
def byteOf (v t : Nat) : Byte := BitVec.ofNat 8 (v / 256 ^ t)

@[simp] theorem leNumber_zero (f : Nat → Byte) : leNumber f 0 = 0 := rfl

theorem leNumber_succ (f : Nat → Byte) (n : Nat) :
    leNumber f (n + 1) = (f 0).toNat + 256 * leNumber (fun t => f (t + 1)) n := by
  have shift : ∀ t, (f (t + 1)).toNat * 2 ^ (8 * (t + 1)) = 256 * ((f (t + 1)).toNat * 2 ^ (8 * t)) := by
    intro t; rw [Nat.mul_add 8 t 1, pow_add]; ring
  simp only [leNumber, Finset.sum_range_succ', shift, ← Finset.mul_sum]
  simp [Nat.add_comm]

@[simp] theorem toNat_byteOf (v t : Nat) : (byteOf v t).toNat = v / 256 ^ t % 256 := by simp [byteOf]

theorem byteOf_succ (v t : Nat) : byteOf v (t + 1) = byteOf (v / 256) t := by
  rw [byteOf, byteOf, Nat.pow_succ', Nat.div_div_eq_div_mul]

/-- A little-endian number determines its bytes. -/
theorem leNumber_div_mod (f : Nat → Byte) {n t : Nat} (ht : t < n) : leNumber f n / 256 ^ t % 256 = (f t).toNat := by
  induction n generalizing f t with
  | zero => omega
  | succ n ih =>
    have hf := (f 0).isLt
    rw [leNumber_succ]
    cases t with
    | zero => rw [Nat.pow_zero, Nat.div_one]; omega
    | succ t =>
      have drop : ((f 0).toNat + 256 * leNumber (fun t => f (t + 1)) n) / 256 = leNumber (fun t => f (t + 1)) n := by omega
      rw [Nat.pow_succ', ← Nat.div_div_eq_div_mul, drop]
      exact ih _ (by omega)

/-- A number that fits `n` bytes is determined by them. -/
theorem leNumber_byteOf {n v : Nat} (hv : v < 2 ^ (8 * n)) : leNumber (byteOf v) n = v := by
  induction n generalizing v with
  | zero =>
    rw [leNumber_zero]
    exact (Nat.lt_one_iff.mp hv).symm
  | succ n ih =>
    have hq : v / 256 < 2 ^ (8 * n) := by
      rw [Nat.mul_add, pow_add] at hv
      omega
    simp only [leNumber_succ, byteOf_succ, ih hq, toNat_byteOf, Nat.pow_zero, Nat.div_one]
    omega

/-! ### Reading and writing consecutive bytes -/

/-- The little-endian number of the `n` bytes from `a` on, where each holds a value. -/
def readBytes (m : Memory) (a : Nat) : Nat → Option Nat
  | 0 => some 0
  | n + 1 => do
    let b ← Store.read m a
    let v ← readBytes m (a + 1) n
    return b.toNat + 256 * v

/-- The `n` bytes from `a` on, overwritten with the bytes of `v`. -/
def writeBytes (m : Memory) (a v n : Nat) : Memory :=
  (List.range n).foldl (fun acc t => Store.write acc (a + t) (byteOf v t)) m

theorem readBytes_of_read {m : Memory} {f : Nat → Byte} {n a : Nat} (h : ∀ t, t < n → Store.read m (a + t) = some (f t)) :
    readBytes m a n = some (leNumber f n) := by
  induction n generalizing a f with
  | zero => rfl
  | succ n ih =>
    have first : Store.read m a = some (f 0) := h 0 (by omega)
    have rest : readBytes m (a + 1) n = some (leNumber (fun t => f (t + 1)) n) :=
      ih fun t ht => by rw [Nat.add_assoc, Nat.add_comm 1 t]; exact h (t + 1) (by omega)
    simp [readBytes, first, rest, leNumber_succ]

/-- A read of `n` bytes needs every one of them. -/
theorem read_of_readBytes {m : Memory} {n a v : Nat} (h : readBytes m a n = some v) :
    ∀ t, t < n → ∃ b, Store.read m (a + t) = some b := by
  induction n generalizing a v with
  | zero => intro t ht; omega
  | succ n ih =>
    simp only [readBytes, Option.bind_eq_bind, Option.bind_eq_some_iff] at h
    obtain ⟨b, hb, v', hv', -⟩ := h
    intro t ht
    cases t with
    | zero => exact ⟨b, hb⟩
    | succ t => rw [Nat.add_comm t 1, ← Nat.add_assoc]; exact ih hv' t (by omega)

theorem readBytes_eq_some_iff {m : Memory} {n a v : Nat} :
    readBytes m a n = some v ↔ ∃ f : Nat → Byte, (∀ t, t < n → Store.read m (a + t) = some (f t)) ∧ v = leNumber f n := by
  constructor
  · intro h
    have hf : ∀ t, t < n → Store.read m (a + t) = some ((Store.read m (a + t)).getD 0) := fun t ht => by
      obtain ⟨b, hb⟩ := read_of_readBytes h t ht
      rw [hb, Option.getD_some]
    exact ⟨_, hf, Option.some.inj (h.symm.trans (readBytes_of_read hf))⟩
  · rintro ⟨f, hf, rfl⟩
    exact readBytes_of_read hf

theorem read_writeBytes (m : Memory) (a v n b : Nat) :
    Store.read (writeBytes m a v n) b = if a ≤ b ∧ b < a + n then some (byteOf v (b - a)) else Store.read m b := by
  induction n with
  | zero => rw [if_neg (by omega)]; rfl
  | succ n ih =>
    have last : writeBytes m a v (n + 1) = Store.write (writeBytes m a v n) (a + n) (byteOf v n) := by
      simp [writeBytes, List.range_succ]
    rw [last, Store.read_write, ih]
    by_cases hb : b = a + n
    · rw [if_pos hb, if_pos (by omega), hb, Nat.add_sub_cancel_left]
    · rw [if_neg hb]
      exact if_congr (by omega) rfl rfl

theorem read_writeBytes_inside (m : Memory) (a v : Nat) {n t : Nat} (ht : t < n) :
    Store.read (writeBytes m a v n) (a + t) = some (byteOf v t) := by
  rw [read_writeBytes, if_pos (by omega), Nat.add_sub_cancel_left]

theorem read_writeBytes_outside (m : Memory) (v : Nat) {a n b : Nat} (h : b < a ∨ a + n ≤ b) :
    Store.read (writeBytes m a v n) b = Store.read m b := by
  rw [read_writeBytes, if_neg (by omega)]

/-- What is written is read back, if it fits. -/
theorem readBytes_writeBytes (m : Memory) (a : Nat) {n v : Nat} (hv : v < 2 ^ (8 * n)) :
    readBytes (writeBytes m a v n) a n = some v := by
  rw [readBytes_of_read fun t ht => read_writeBytes_inside m a v ht, leNumber_byteOf hv]

/-! ### `memRead` and `memWrite` by R53's requirements -/

/-- R53's requirements on an access of `n` bytes at `addr`. -/
def Accessible (size addr n : Nat) : Prop := addr + n ≤ size ∧ (n = 1 ∨ (n = 8 ∧ addr % 8 = 0))

theorem memRead_of_accessible (m : Memory) {size addr n : Nat} (h : Accessible size addr n) :
    memRead m size addr n = readBytes m addr n := by
  obtain ⟨hsize, rfl | ⟨rfl, haligned⟩⟩ := h
  · rw [memRead, if_pos hsize, if_pos rfl]
    cases hb : Store.read m addr <;> simp [readBytes, hb]
  · rw [memRead, if_pos hsize, if_neg (by decide), if_pos ⟨rfl, haligned⟩]
    rfl

theorem memWrite_of_accessible (m : Memory) (v : Nat) {size addr n : Nat} (h : Accessible size addr n) :
    memWrite m size addr n v = some (writeBytes m addr v n) := by
  obtain ⟨hsize, rfl | ⟨rfl, haligned⟩⟩ := h
  · rw [memWrite, if_pos hsize, if_pos rfl]
    simp [writeBytes, byteOf]
  · rw [memWrite, if_pos hsize, if_neg (by decide), if_pos ⟨rfl, haligned⟩]
    rfl

theorem memRead_eq_none (m : Memory) {size addr n : Nat} (h : ¬ Accessible size addr n) : memRead m size addr n = none := by
  unfold memRead
  split
  · next hsize =>
    rw [if_neg fun h1 => h ⟨hsize, .inl h1⟩, if_neg fun h8 => h ⟨hsize, .inr h8⟩]
  · rfl

theorem memWrite_eq_none (m : Memory) (v : Nat) {size addr n : Nat} (h : ¬ Accessible size addr n) :
    memWrite m size addr n v = none := by
  unfold memWrite
  split
  · next hsize =>
    rw [if_neg fun h1 => h ⟨hsize, .inl h1⟩, if_neg fun h8 => h ⟨hsize, .inr h8⟩]
  · rfl

/-- Only an access that meets the requirements is answered. -/
theorem accessible_of_memRead {m : Memory} {size addr n v : Nat} (h : memRead m size addr n = some v) :
    Accessible size addr n := by
  by_contra hn
  rw [memRead_eq_none m hn] at h
  cases h

theorem accessible_of_memWrite {m m' : Memory} {size addr n v : Nat} (h : memWrite m size addr n v = some m') :
    Accessible size addr n := by
  by_contra hn
  rw [memWrite_eq_none m v hn] at h
  cases h

theorem memRead_one (m : Memory) {size addr : Nat} (h : addr + 1 ≤ size) :
    memRead m size addr 1 = (Store.read m addr).map BitVec.toNat := by
  rw [memRead, if_pos h, if_pos rfl]

/-! ### R53 -/

/-- A write is read back whole and byte by byte, and leaves every other byte alone. -/
theorem memWrite_spec (m : Memory) {size addr n v : Nat} (h : Accessible size addr n) (hv : v < 2 ^ (8 * n)) :
    ∃ m', memWrite m size addr n v = some m' ∧ memRead m' size addr n = some v ∧
      (∀ t, t < n → memRead m' size (addr + t) 1 = some (v / 256 ^ t % 256)) ∧
      (∀ a, a < addr ∨ addr + n ≤ a → Store.read m' a = Store.read m a) := by
  refine ⟨_, memWrite_of_accessible m v h, ?_, fun t ht => ?_, fun a => read_writeBytes_outside m v⟩
  · rw [memRead_of_accessible _ h, readBytes_writeBytes m addr hv]
  · obtain ⟨hsize, -⟩ := h
    rw [memRead_one _ (by omega), read_writeBytes_inside m addr v ht, Option.map_some, toNat_byteOf]

/-- A byte written alone is the corresponding 8 bits of a later eight-byte read. -/
theorem byte_of_memRead_after_memWrite_one {m m' : Memory} {size addr a b v : Nat} (hlow : addr ≤ a) (hhigh : a < addr + 8)
    (hb : b < 256) (hw : memWrite m size a 1 b = some m') (hr : memRead m' size addr 8 = some v) :
    v / 256 ^ (a - addr) % 256 = b := by
  rw [memWrite_of_accessible m b (accessible_of_memWrite hw)] at hw
  rw [memRead_of_accessible m' (accessible_of_memRead hr), readBytes_eq_some_iff] at hr
  cases hw
  obtain ⟨f, hf, rfl⟩ := hr
  have hread := hf (a - addr) (by omega)
  have hwritten := read_writeBytes_inside m a b (n := 1) (t := 0) (by omega)
  rw [Nat.add_sub_cancel' hlow] at hread
  have hbyte : f (a - addr) = byteOf b 0 := Option.some.inj (hread.symm.trans hwritten)
  rw [leNumber_div_mod f (by omega), hbyte, toNat_byteOf, Nat.pow_zero, Nat.div_one, Nat.mod_eq_of_lt hb]

/-- Settles O52: each access that meets R53's requirements is a read or a write of consecutive little-endian bytes. -/
theorem byteAndWordViewsAgree : Obligations.ByteAndWordViewsAgree := by
  refine ⟨fun m size addr h => memRead_one m h, fun m size addr v hsize haligned => ?_, fun m size addr n v h => ?_,
    fun m size addr n v hsize hn hv => memWrite_spec m ⟨hsize, hn⟩ hv,
    fun m m' size addr a b v => byte_of_memRead_after_memWrite_one⟩
  · rw [memRead_of_accessible m ⟨hsize, .inr ⟨rfl, haligned⟩⟩]
    exact readBytes_eq_some_iff
  · have hn : ¬ Accessible size addr n := by
      rintro ⟨hsize, hwidth⟩
      omega
    exact ⟨memRead_eq_none m hn, memWrite_eq_none m v hn⟩

end Sys2Proof.MemoryView
end

section
/-! Proofs for 30_encoding.md R78: a word is illegal exactly when its fields break the format, which is exactly when no row
of the opcode map spells it. Masks, values and words are compared field by field. -/

namespace Sys2Proof.OpcodeMap

open Sys2Proof Sys2Proof.Machine

/-! ### Rows by their fields -/

/-- The mask of one operand field (R77): all ones where the command does not use it. -/
def operandMask (used : Bool) : Word64 := if used then 0 else BitVec.allOnes 64

/-- The fields of a row's mask (R77), for the operand fields (A, B, C) its command uses. -/
def maskFields (used : Bool × Bool × Bool) : CommandFields :=
  ⟨BitVec.allOnes 8, BitVec.allOnes 56, operandMask used.1, operandMask used.2.1, operandMask used.2.2⟩

/-- The fields of a row's value (R76): `OP` and nothing else. -/
def valueFields (op : BitVec 8) : CommandFields := ⟨op, 0, 0, 0, 0⟩

/-- The row is the one of an opcode that uses these operand fields (R76, R77). -/
def IsRowOf (r : OpcodeRow) (op : BitVec 8) (used : Bool × Bool × Bool) : Prop :=
  operandsUsed op = some used ∧ r.mask = wordOf (maskFields used) ∧ r.value = wordOf (valueFields op)

/-- `RSV` and the operand fields that are not used are 0 (R78). -/
def RestZero (used : Bool × Bool × Bool) (f : CommandFields) : Prop :=
  f.rsv = 0 ∧ (used.1 = false → f.a = 0) ∧ (used.2.1 = false → f.b = 0) ∧ (used.2.2 = false → f.c = 0)

theorem fieldsOf_inj {v w : CommandWord} : fieldsOf v = fieldsOf w ↔ v = w :=
  ⟨fun h => by rw [← wordOf_fieldsOf v, h, wordOf_fieldsOf], congrArg fieldsOf⟩

/-- Words are masked field by field. -/
theorem fieldsOf_and (v w : CommandWord) :
    fieldsOf (v &&& w) =
      ⟨(fieldsOf v).op &&& (fieldsOf w).op, (fieldsOf v).rsv &&& (fieldsOf w).rsv, (fieldsOf v).a &&& (fieldsOf w).a,
        (fieldsOf v).b &&& (fieldsOf w).b, (fieldsOf v).c &&& (fieldsOf w).c⟩ := by
  simp only [fieldsOf, BitVec.extractLsb'_and]

theorem and_operandMask_eq_zero (used : Bool) (x : Word64) : x &&& operandMask used = 0 ↔ (used = false → x = 0) := by
  cases used
  · rw [operandMask, if_neg (by decide), BitVec.and_allOnes]; simp
  · rw [operandMask, if_pos rfl]; simp

theorem spells_iff {r : OpcodeRow} {op : BitVec 8} {used : Bool × Bool × Bool} (h : IsRowOf r op used) (w : CommandWord) :
    r.spells w = true ↔ (fieldsOf w).op = op ∧ RestZero used (fieldsOf w) := by
  obtain ⟨-, hmask, hvalue⟩ := h
  rw [OpcodeRow.spells, beq_iff_eq, hmask, hvalue, ← fieldsOf_inj, fieldsOf_and, fieldsOf_wordOf, fieldsOf_wordOf]
  simp only [maskFields, valueFields, CommandFields.mk.injEq, BitVec.and_allOnes, and_operandMask_eq_zero, RestZero]

/-- Every row of the map is the row of its value's opcode. -/
theorem isRowOf_of_mem {r : OpcodeRow} (h : r ∈ opcodeRows) : ∃ used, IsRowOf r (fieldsOf r.value).op used := by
  have rows : ∀ r ∈ opcodeRows,
      (operandsUsed (fieldsOf r.value).op).map (fun used => wordOf (maskFields used)) = some r.mask ∧
        r.value = wordOf (valueFields (fieldsOf r.value).op) := by decide
  obtain ⟨hmask, hvalue⟩ := rows r h
  obtain ⟨used, hused, hmask⟩ := Option.map_eq_some_iff.mp hmask
  exact ⟨used, hused, hmask.symm, hvalue⟩

/-- Every opcode of the format has a row. -/
theorem exists_row_of_operandsUsed {op : BitVec 8} {used : Bool × Bool × Bool} (h : operandsUsed op = some used) :
    ∃ r ∈ opcodeRows, IsRowOf r op used := by
  have hop : op ∈ opcodeRows.map fun r => (fieldsOf r.value).op := by
    unfold operandsUsed at h
    split at h
    case h_10 => cases h
    all_goals
      next hnat =>
      rw [show op = BitVec.ofNat 8 op.toNat by simp, hnat]
      decide
  obtain ⟨r, hr, rfl⟩ := List.mem_map.mp hop
  obtain ⟨used', hrow⟩ := isRowOf_of_mem hr
  obtain rfl : used' = used := Option.some.inj (hrow.1.symm.trans h)
  exact ⟨r, hr, hrow⟩

/-! ### Legal words -/

theorem fields_wf_iff (f : CommandFields) :
    f.wf = true ↔ ∃ used, operandsUsed f.op = some used ∧ RestZero used f := by
  unfold CommandFields.wf
  cases operandsUsed f.op with
  | none => simp
  | some used =>
    obtain ⟨useA, useB, useC⟩ := used
    simp [RestZero, and_assoc, or_iff_not_imp_left]

/-- A word's fields fit the format exactly when some row spells it. -/
theorem fields_wf_iff_spelled (w : CommandWord) :
    (fieldsOf w).wf = true ↔ ∃ r ∈ opcodeRows, r.spells w = true := by
  rw [fields_wf_iff]
  constructor
  · rintro ⟨used, hused, hrest⟩
    obtain ⟨r, hr, hrow⟩ := exists_row_of_operandsUsed hused
    exact ⟨r, hr, (spells_iff hrow w).mpr ⟨rfl, hrest⟩⟩
  · rintro ⟨r, hr, hspells⟩
    obtain ⟨used, hrow⟩ := isRowOf_of_mem hr
    obtain ⟨hop, hrest⟩ := (spells_iff hrow w).mp hspells
    exact ⟨used, hop ▸ hrow.1, hrest⟩

theorem instrOf_eq_none_iff (op : BitVec 8) (a b c : Word64) : instrOf op a b c = none ↔ operandsUsed op = none := by
  unfold instrOf operandsUsed
  split <;> simp_all

/-- The decoder refuses a word exactly when its fields do not fit the format. -/
theorem decode_error_iff (w : CommandWord) : (∃ e, decode w = .error e) ↔ (fieldsOf w).wf = false := by
  unfold decode
  dsimp only
  split
  · next hnone =>
    have hwf : (fieldsOf w).wf = false := by
      rw [CommandFields.wf, (instrOf_eq_none_iff _ _ _ _).mp hnone]
    simp [hwf]
  · split
    · next hrsv =>
      have hwf : ¬ (fieldsOf w).wf = true := by
        rw [fields_wf_iff]
        rintro ⟨-, -, hzero, -⟩
        exact absurd hzero (by simpa using hrsv)
      simp [hwf]
    · split <;> simp_all

theorem not_restZero_iff (used : Bool × Bool × Bool) (f : CommandFields) :
    ¬ RestZero used f ↔ f.rsv ≠ 0 ∨ (used.1 = false ∧ f.a ≠ 0) ∨ (used.2.1 = false ∧ f.b ≠ 0) ∨
      (used.2.2 = false ∧ f.c ≠ 0) := by
  simp only [RestZero, not_and_or, Classical.not_imp, ne_eq]

/-! ### R78 -/

theorem illegal_iff_not_spelled (w : CommandWord) :
    (∃ e, decode w = .error e) ↔ ∀ r ∈ opcodeRows, r.spells w = false := by
  rw [decode_error_iff, ← Bool.not_eq_true, fields_wf_iff_spelled]
  simp

theorem illegal_iff_fields (w : CommandWord) :
    (∃ e, decode w = .error e) ↔
      (operandsUsed (fieldsOf w).op = none ∨ (fieldsOf w).rsv ≠ 0 ∨
        ∃ a b c, operandsUsed (fieldsOf w).op = some (a, b, c) ∧
          ((a = false ∧ (fieldsOf w).a ≠ 0) ∨ (b = false ∧ (fieldsOf w).b ≠ 0) ∨ (c = false ∧ (fieldsOf w).c ≠ 0))) := by
  rw [decode_error_iff, ← Bool.not_eq_true, fields_wf_iff]
  cases operandsUsed (fieldsOf w).op with
  | none => simp
  | some used =>
    obtain ⟨a, b, c⟩ := used
    simp only [Option.some.injEq, Prod.mk.injEq, and_assoc, exists_and_left, exists_eq_left',
      not_restZero_iff, reduceCtorEq, false_or]

/-- Two rows never spell one word, because a word has one `OP`. -/
theorem rows_disjoint :
    opcodeRows.Pairwise fun r r' => ∀ w : CommandWord, ¬ (r.spells w = true ∧ r'.spells w = true) := by
  have distinct : opcodeRows.Pairwise fun r r' => (fieldsOf r.value).op ≠ (fieldsOf r'.value).op := by decide
  refine distinct.imp_of_mem fun {r r'} hr hr' hne w ⟨hs, hs'⟩ => hne ?_
  obtain ⟨_, hrow⟩ := isRowOf_of_mem hr
  obtain ⟨_, hrow'⟩ := isRowOf_of_mem hr'
  obtain ⟨hop, -⟩ := (spells_iff hrow w).mp hs
  obtain ⟨hop', -⟩ := (spells_iff hrow' w).mp hs'
  exact hop.symm.trans hop'

theorem step_of_illegal {s : State} {w : CommandWord} {rest : List HostInput} {e : DecodeError}
    (hcfg : s.cfg.wf = true) (hin : s.inbox = .command w :: rest) (hdec : decode w = .error e) :
    step s = .next ({ s with inbox := rest } : State).answerIllegal := by
  simp [step, fetch, hcfg, hin, hdec]

/-- Settles O4: words, rows and the format compared field by field; the step is fault entry. -/
theorem illegalWordRaisesIllegal : Obligations.IllegalWordRaisesIllegal := by
  refine ⟨illegal_iff_not_spelled, illegal_iff_fields, rows_disjoint, fun s w rest e hcfg hin hdec hfault => ?_⟩
  rw [step_of_illegal hcfg hin hdec]
  rcases answerIllegal_cases { s with inbox := rest } with ⟨hsticky, -⟩ | ⟨-, hraise⟩
  · exact absurd (hfault.symm.trans hsticky) (by decide)
  · rw [hraise, State.raiseFault_eq]

end Sys2Proof.OpcodeMap
end

section
/-! Proofs for 30_encoding.md R74 and R75. A command answers in one of three ways: stickily, by taking a fault, or by
completing with a result; a state that meets the invariant never stops a command instead, because every cell a command
needs then holds a value. What R74 and R75 say of responses follows from the three ways alone. -/

namespace Sys2Proof.Responses

open Sys2Proof Sys2Proof.Machine

/-! ### The cells a command needs hold values -/

theorem read_isSome_iff {α : Type} (m : Store α) (a : Nat) : (Store.read m a).isSome = true ↔ a ∈ m.map Prod.fst := by
  induction m with
  | nil => simp
  | cons x m ih =>
    obtain ⟨k, v⟩ := x
    rw [Store.read_cons, List.map_cons, List.mem_cons, ← ih]
    by_cases h : k = a
    · simp [h]
    · simp [h, Ne.symm h]

section
variable {s : State}

theorem sieveByte_present (hs : s.Inv) (hv : s.sieveValid = true) {a : Nat} (ha : a < s.size.toNat) :
    (Store.read s.bytes a).isSome = true := by
  rw [read_isSome_iff, hs.bytes_present, if_pos hv]
  exact List.mem_range.mpr ha

theorem sieveReadable_of_inv (hs : s.Inv) (hv : s.sieveValid = true) : s.sieveReadable = true :=
  List.all_eq_true.mpr fun _ ha => sieveByte_present hs hv (List.mem_range.mp ha)

theorem countersReadable_of_inv (hs : s.Inv) (hv : s.cntValid = true) : s.countersReadable = true :=
  (hs.counters_present hv).2

/-- Every wheel entry in use holds a value (R29). -/
def WheelPresent (s : State) : Prop := ∀ i, 4 ≤ i → i < s.wheelCount → (Store.read s.wheel i).isSome = true

theorem wheelPresent_of_inv (hs : s.Inv) (hc : s.created = true) : WheelPresent s := by
  intro i h4 hi
  rw [read_isSome_iff, hs.wheel_present, if_pos hc, List.mem_range'_1]
  omega

theorem entryNumber_le (r : BitVec 32) : entryNumber r ≤ 2 ^ 32 := by
  unfold entryNumber
  split
  · exact le_rfl
  · exact r.isLt.le

/-! ### Crossing bodies are never stopped -/

theorem crossBody_isSome (hw : WheelPresent s) {i : Nat} (h4 : 4 ≤ i) (hi : i ≤ s.wheelCount) (p : Nat) (counted : Bool) :
    ∃ r, s.crossBody i p counted = some r := by
  have present : (Store.read (if i = s.wheelCount then s.addWheel p else s).wheel i).isSome = true := by
    split
    · next hnew => simp [hnew]
    · exact hw i h4 (by omega)
  obtain ⟨e, he⟩ := Option.isSome_iff_exists.mp present
  exact ⟨_, by simp only [State.crossBody, he]; rfl⟩

theorem crossBody_wheel_own {t : State} {i p n : Nat} {counted : Bool} (h : s.crossBody i p counted = some (t, n)) :
    (Store.read t.wheel i).isSome = true := by
  obtain ⟨s1, e, -, -, ht⟩ := crossBody_cases h
  obtain rfl : t = (s1.crossEntry i p counted e).1 := congrArg Prod.fst ht
  simp [State.crossEntry]

theorem crossBody_wheelCount {t : State} {i p n : Nat} {counted : Bool} (h : s.crossBody i p counted = some (t, n))
    (hi : i < 2 ^ 32) : t.wheelCount = if i = s.wheelCount then s.wheelCount + 1 else s.wheelCount := by
  rw [State.wheelCount, crossBody_wcnt h]
  split
  · next hnew => exact entryNumber_succ (show s.wheelCount < 2 ^ 32 from hnew ▸ hi)
  · rfl

/-- After a body every entry in use still holds a value, the body's own among them. -/
theorem crossBody_wheelPresent {t : State} {i p n : Nat} {counted : Bool} (hw : WheelPresent s)
    (h : s.crossBody i p counted = some (t, n)) (hi : i ≤ s.wheelCount) (hlt : i < 2 ^ 32) :
    WheelPresent t ∧ i < t.wheelCount := by
  have hcount := crossBody_wheelCount h hlt
  constructor
  · intro b h4 hb
    by_cases hbi : b = i
    · exact hbi ▸ crossBody_wheel_own h
    · rw [crossBody_wheel_other h hbi]
      exact hw b h4 (by split at hcount <;> omega)
  · split at hcount <;> omega

/-- The inner cross-offs of PRESIEVE (R101 step 7), started at an entry that is present or the next to be made. -/
theorem crossAll_isSome {n i : Nat} (hw : WheelPresent s) (h4 : 4 ≤ i) (hi : i ≤ s.wheelCount)
    (hindex : ∀ j ∈ List.range' i n, j < s.cfg.primesLen ∧ j < 2 ^ 32) :
    ∃ t, State.crossAll (List.range' i n) s = some t := by
  induction n generalizing i s with
  | zero => exact ⟨s, rfl⟩
  | succ n ih =>
    rw [List.range'_succ] at hindex ⊢
    obtain ⟨⟨hprime, hlt⟩, hrest⟩ := List.forall_mem_cons.mp hindex
    obtain ⟨p, hp⟩ : ∃ p, s.cfg.primes[i]? = some p := ⟨_, List.getElem?_eq_getElem hprime⟩
    obtain ⟨⟨u, v⟩, hbody⟩ := crossBody_isSome hw h4 hi p false
    obtain ⟨hwu, hiu⟩ := crossBody_wheelPresent hw hbody hi hlt
    have hcfg : u.cfg = s.cfg := by rw [crossBody_frame hbody]
    obtain ⟨t, ht⟩ := ih hwu (Nat.le_succ_of_le h4) hiu (by rwa [hcfg])
    exact ⟨t, by simp only [State.crossAll, hp, hbody, ht]⟩

end

/-! ### The three ways to answer -/

/-- The fields that only answers, faults and the host write are the same. -/
structure SameBookkeeping (s u : State) : Prop where
  fault : u.fault = s.fault
  cause : u.cause = s.cause
  responses : u.responses = s.responses
  cidx : u.cidx = s.cidx
  inbox : u.inbox = s.inbox

/-- All an answer can be, where a completed command answers one of `results`: the sticky answer (R174), a fault (R172), or a
result after an effect that leaves the bookkeeping alone (R75). -/
inductive Answered (s : State) (results : Set Nat) : State → Prop where
  | sticky : s.fault = true → Answered s results s.stickyAnswer
  | faulted (c : Cause) : s.fault = false → Answered s results (s.raiseFault c)
  | completed (u : State) (v : Nat) : s.fault = false → SameBookkeeping s u → v ∈ results → Answered s results (u.respond v)

/-- The outcome is a next state, and it is an answer. -/
def Answers (s : State) (results : Set Nat) (o : Host.Outcome State Fault Refusal) : Prop :=
  ∃ t, o = .next t ∧ Answered s results t

/-- The outcome is that of a completed command. -/
def Completes (s : State) (results : Set Nat) (o : Host.Outcome State Fault Refusal) : Prop :=
  ∃ u v, o = .next (u.respond v) ∧ SameBookkeeping s u ∧ v ∈ results

/-- What a command may answer when it completes: `R = 0` if it has no result (R75). -/
def resultsOf (i : Instr) : Set Nat := {v | hasResult i = false → v = 0}

/-- What a word may be answered with when it completes; an illegal word never completes. -/
def resultsOfWord (w : CommandWord) : Set Nat := {v | ∃ i, decode w = .ok i ∧ v ∈ resultsOf i}

section
variable {s : State} {results : Set Nat}

theorem Answers.mono {results' : Set Nat} {o : Host.Outcome State Fault Refusal} (h : Answers s results o)
    (hsub : results ⊆ results') : Answers s results' o := by
  obtain ⟨t, ht, hanswered⟩ := h
  refine ⟨t, ht, ?_⟩
  cases hanswered with
  | sticky hf => exact .sticky hf
  | faulted c hf => exact .faulted c hf
  | completed u v hf hu hv => exact .completed u v hf hu (hsub hv)

theorem SameBookkeeping.refl (s : State) : SameBookkeeping s s := ⟨rfl, rfl, rfl, rfl, rfl⟩

theorem sameBookkeeping_of_crossing {t : State} {b : Memory} {c : Store (BitVec 64)} {w : Store WheelEntry} {n : BitVec 32}
    (h : t = { s with bytes := b, cnt := c, wheel := w, wcnt := n }) : SameBookkeeping s t := by
  subst h
  exact ⟨rfl, rfl, rfl, rfl, rfl⟩

theorem completes_unchanged {v : Nat} (hv : v ∈ results) : Completes s results (.next (s.respond v)) :=
  ⟨s, v, rfl, .refl s, hv⟩

theorem completes_whenReadable {readable : Bool} {u : State} {v : Nat} (hr : readable = true) (hu : SameBookkeeping s u)
    (hv : v ∈ results) : Completes s results (whenReadable readable (u.respond v)) :=
  ⟨u, v, (whenReadable_eq_next _ _ _).mpr ⟨hr, rfl⟩, hu, hv⟩

/-- A command answers if its effect completes whenever its checks hold. -/
theorem runCommand_answers {needsCreated : Bool} {checks : State → List Check}
    {effect : State → Host.Outcome State Fault Refusal}
    (heffect : (needsCreated = true → s.created = true) → (∀ x ∈ checks s, x.1 = true) → Completes s results (effect s)) :
    Answers s results (runCommand needsCreated checks effect s) := by
  rcases runCommand_cases (needsCreated := needsCreated) (checks := checks) (effect := effect) (s := s) with
    ⟨hf, hrun⟩ | ⟨hf, -, -, hrun⟩ | ⟨c, hf, -, -, hrun⟩ | ⟨hf, hc, hchecks, hrun⟩
  · exact ⟨_, hrun, .sticky hf⟩
  · exact ⟨_, hrun, .faulted .state hf⟩
  · exact ⟨_, hrun, .faulted c hf⟩
  · obtain ⟨u, v, heq, hu, hv⟩ := heffect hc ((firstFailing_eq_none _).mp hchecks)
    exact ⟨_, hrun.trans heq, .completed u v hf hu hv⟩

/-! ### Each command answers -/

theorem execNew_answers (a b c : Word64) : Answers s {0} (execNew a b c s) :=
  runCommand_answers fun _ _ => ⟨s.newSieve a.toNat b.toNat c.toNat, 0, rfl, ⟨rfl, rfl, rfl, rfl, rfl⟩, rfl⟩

theorem execSegsz_answers : Answers s Set.univ (execSegsz s) :=
  runCommand_answers fun _ _ => completes_unchanged trivial

theorem execCount_answers (hs : s.Inv) (a b : Word64) : Answers s Set.univ (execCount a b s) := by
  refine runCommand_answers fun _ hchecks => ?_
  have hv : s.sieveValid = true := hchecks (s.sieveValid, .state) (by simp [countChecks])
  split
  · exact completes_unchanged trivial
  · exact completes_whenReadable (sieveReadable_of_inv hs hv) (.refl s) trivial

/-- Check 6 of R100 keeps the indices of the inner cross-offs inside the prime table and the wheel. -/
theorem presieve_indices {c low high : Nat} (hchecks : ∀ x ∈ presieveChecks c low high s, x.1 = true) :
    ∀ j ∈ sievingIndices c, j < s.cfg.primesLen ∧ j < 2 ^ 32 := by
  have check6 : c < 4 ∨ c < s.cfg.primesLen ∧ c < s.wheelCapacity := by
    simpa using hchecks
      (decide (c < 4) || (decide (c < s.cfg.primesLen) && decide (c < s.wheelCapacity)), .range) (by simp [presieveChecks])
  have hcap : s.wheelCapacity ≤ 2 ^ 32 := entryNumber_le s.wcap
  intro j hj
  rw [sievingIndices, List.mem_range'_1] at hj
  omega

theorem execPresieve_answers (hs : s.Inv) (c low high : Word64) : Answers s {0} (execPresieve c low high s) := by
  refine runCommand_answers fun hc hchecks => ?_
  have hw : WheelPresent s := wheelPresent_of_inv hs (hc rfl)
  obtain ⟨-, -, -, -, -, h4, -⟩ := hs.registers (hc rfl)
  have hindex := presieve_indices hchecks
  obtain ⟨t, ht⟩ : ∃ t, State.crossAll (sievingIndices c.toNat) (s.openSegment low.toNat high.toNat) = some t :=
    crossAll_isSome (s := s.openSegment low.toNat high.toNat) hw le_rfl h4 hindex
  have book := sameBookkeeping_of_crossing (crossAll_frame ht)
  exact ⟨t, 0, by rw [ht], ⟨book.fault, book.cause, book.responses, book.cidx, book.inbox⟩, rfl⟩

/-- Check 2 of R130 lets a crossing body find its entry. -/
theorem crossBody_of_checks (hs : s.Inv) (hc : s.created = true) {i p : Nat} (counted : Bool)
    (hchecks : ∀ x ∈ s.crossingChecks i p, x.1 = true) :
    ∃ u v, s.crossBody i p counted = some (u, v) ∧ SameBookkeeping s u := by
  have check2 : (4 ≤ i ∧ i ≤ s.wheelCount) ∧ i < s.wheelCapacity := by
    simpa using hchecks
      (decide (4 ≤ i) && decide (i ≤ s.wheelCount) && decide (i < s.wheelCapacity), .range) (by simp [State.crossingChecks])
  obtain ⟨⟨h4, hi⟩, -⟩ := check2
  obtain ⟨⟨u, v⟩, hbody⟩ := crossBody_isSome (wheelPresent_of_inv hs hc) h4 hi p counted
  exact ⟨u, v, hbody, sameBookkeeping_of_crossing (crossBody_frame hbody)⟩

theorem execCrossoff_answers (hs : s.Inv) (i p : Word64) : Answers s Set.univ (execCrossoff i p s) := by
  refine runCommand_answers fun hc hchecks => ?_
  obtain ⟨hv, hcrossing⟩ := List.forall_mem_cons.mp hchecks
  obtain ⟨u, v, hbody, book⟩ := crossBody_of_checks hs (hc rfl) false hcrossing
  rw [hbody]
  exact completes_whenReadable (sieveReadable_of_inv hs hv)
    ⟨book.fault, book.cause, book.responses, book.cidx, book.inbox⟩ trivial

theorem execCrossoffc_answers (hs : s.Inv) (i p : Word64) : Answers s Set.univ (execCrossoffc i p s) := by
  refine runCommand_answers fun hc hchecks => ?_
  obtain ⟨hv, hcrossing⟩ := List.forall_mem_cons.mp hchecks
  obtain ⟨hsieve, hcnt⟩ := Bool.and_eq_true_iff.mp hv
  obtain ⟨u, v, hbody, book⟩ := crossBody_of_checks hs (hc rfl) true hcrossing
  rw [hbody]
  exact completes_whenReadable
    (Bool.and_eq_true_iff.mpr ⟨sieveReadable_of_inv hs hsieve, countersReadable_of_inv hs hcnt⟩) book trivial

theorem execCntfinit_answers (hs : s.Inv) : Answers s {0} (execCntfinit s) := by
  refine runCommand_answers fun _ hchecks => ?_
  have hv : s.sieveValid = true := hchecks (s.sieveValid, .state) (by simp)
  exact completes_whenReadable (u := s.initCounters) (sieveReadable_of_inv hs hv) ⟨rfl, rfl, rfl, rfl, rfl⟩ rfl

theorem execCntunset_answers (hs : s.Inv) (k : Word64) : Answers s Set.univ (execCntunset k s) := by
  refine runCommand_answers fun _ hchecks => ?_
  obtain ⟨hv, hrange⟩ := List.forall_mem_cons.mp hchecks
  obtain ⟨hsieve, hcnt⟩ := Bool.and_eq_true_iff.mp hv
  obtain ⟨hcntn, -⟩ := hs.counters_present hcnt
  have hk : k.toNat < s.cntn.toNat := by simpa using hrange
  have readable : ((Store.read s.bytes (k.toNat / 8)).isSome && s.countersReadable) = true :=
    Bool.and_eq_true_iff.mpr ⟨sieveByte_present hs hsieve (by omega), countersReadable_of_inv hs hcnt⟩
  split
  · exact completes_whenReadable (u := s.unset k.toNat) readable ⟨rfl, rfl, rfl, rfl, rfl⟩ trivial
  · exact completes_whenReadable readable (.refl s) trivial

theorem execCntquery_answers (hs : s.Inv) (k : Word64) : Answers s Set.univ (execCntquery k s) := by
  refine runCommand_answers fun _ hchecks => ?_
  have hv : s.cntValid = true := hchecks (s.cntValid, .state) (by simp)
  exact completes_whenReadable (countersReadable_of_inv hs hv) (.refl s) trivial

/-- Every command answers, from every state that meets the invariant. -/
theorem exec_answers (hs : s.Inv) (i : Instr) : Answers s (resultsOf i) (exec i s) := by
  have silent : {0} ⊆ resultsOf i := fun _ hv _ => hv
  have loud : hasResult i = true → Set.univ ⊆ resultsOf i := fun hres _ _ hnone =>
    absurd (hres.symm.trans hnone) (by decide)
  cases i with
  | new a b c => exact (execNew_answers a b c).mono silent
  | segsz => exact execSegsz_answers.mono (loud rfl)
  | count a b => exact (execCount_answers hs a b).mono (loud rfl)
  | presieve c low high => exact (execPresieve_answers hs c low high).mono silent
  | crossoff k p => exact (execCrossoff_answers hs k p).mono (loud rfl)
  | cntfinit => exact (execCntfinit_answers hs).mono silent
  | cntunset k => exact (execCntunset_answers hs k).mono (loud rfl)
  | cntquery k => exact (execCntquery_answers hs k).mono (loud rfl)
  | crossoffc k p => exact (execCrossoffc_answers hs k p).mono (loud rfl)

/-! ### Each word is answered -/

/-- The invariant does not speak of what the host has yet to send. -/
theorem inv_of_inbox (hs : s.Inv) (rest : List HostInput) : ({ s with inbox := rest } : State).Inv :=
  ⟨hs.cfg_wf, hs.index, hs.cause_iff, hs.cause_le, hs.sieve_created, hs.primed_sieve, hs.cnt_sieve, hs.registers,
    hs.bytes_present, hs.wheel_present, hs.wheel_states, hs.cnt_wf, hs.counters_present⟩

theorem step_of_legal {w : CommandWord} {rest : List HostInput} {i : Instr}
    (hcfg : s.cfg.wf = true) (hin : s.inbox = .command w :: rest) (hdec : decode w = .ok i) :
    step s = exec i { s with inbox := rest } := by
  simp [step, fetch, hcfg, hin, hdec]

theorem step_answers {w : CommandWord} {rest : List HostInput} (hs : s.Inv) (hin : s.inbox = .command w :: rest) :
    Answers { s with inbox := rest } (resultsOfWord w) (step s) := by
  cases hdec : decode w with
  | ok i =>
    rw [step_of_legal hs.cfg_wf hin hdec]
    exact (exec_answers (inv_of_inbox hs rest) i).mono fun _ hv => ⟨i, hdec, hv⟩
  | error e =>
    rw [OpcodeMap.step_of_illegal hs.cfg_wf hin hdec]
    rcases answerIllegal_cases { s with inbox := rest } with ⟨hf, heq⟩ | ⟨hf, heq⟩
    · exact ⟨_, by rw [heq], .sticky hf⟩
    · exact ⟨_, by rw [heq], .faulted .illegal hf⟩

/-! ### What an answer leaves -/

/-- R74: one response, `cidx` advanced by 1, and no input touched. -/
theorem Answered.bookkeeping {t : State} (h : Answered s results t) :
    ∃ r, t.responses = s.responses ++ [r] ∧ t.cidx = s.cidx + 1 ∧ t.inbox = s.inbox := by
  cases h with
  | sticky _ => exact ⟨_, rfl, rfl, rfl⟩
  | faulted c _ => exact ⟨_, rfl, rfl, rfl⟩
  | completed u v _ hu _ => exact ⟨_, by rw [State.respond_responses, hu.responses], by simp [hu.cidx], hu.inbox⟩

theorem okWord_wellFormed (v : Word64) : wellFormedResponse (okWord v) := by
  simp [wellFormedResponse, okWord]

theorem faultWord_wellFormed {c : BitVec 8} (hc : c ≠ 0) : wellFormedResponse (faultWord c) := by
  simpa [wellFormedResponse, faultWord] using hc

theorem code_ne_zero (c : Cause) : c.code ≠ 0 := by cases c <;> decide

/-- R75: the response reports the fault and the cause the answer leaves, and a result the command may have. -/
theorem Answered.response {t : State} {r : ResponseWord} (h : Answered s results t) (hcause : s.cause = 0 ↔ s.fault = false)
    (hr : t.responses = s.responses ++ [r]) :
    wellFormedResponse r ∧ (responseSt r = 1 ↔ t.fault = true) ∧ responseCause r = t.cause ∧
      (responseResult r = 0 ∨ ∃ v ∈ results, responseResult r = BitVec.ofNat 64 v) := by
  cases h with
  | sticky hf =>
    obtain rfl : faultWord s.cause = r := by simpa using hr
    have hne : s.cause ≠ 0 := fun h0 => absurd (hf.symm.trans (hcause.mp h0)) (by decide)
    exact ⟨faultWord_wellFormed hne, by simp [faultWord, hf], by simp [faultWord], .inl (by simp [faultWord])⟩
  | faulted c hf =>
    obtain rfl : faultWord c.code = r := by simpa using hr
    exact ⟨faultWord_wellFormed (code_ne_zero c), by simp [faultWord], by simp [faultWord], .inl (by simp [faultWord])⟩
  | completed u v hf hu hv =>
    obtain rfl : okWord (BitVec.ofNat 64 v) = r := by simpa [hu.responses] using hr
    have hzero : u.cause = 0 := hu.cause.trans (hcause.mpr hf)
    exact ⟨okWord_wellFormed _, by simp [okWord, hu.fault, hf], by simp [okWord, hzero],
      .inr ⟨v, hv, by simp [okWord]⟩⟩

theorem responseResult_of_silent {w : CommandWord} {i : Instr} {r : ResponseWord} (hdec : decode w = .ok i)
    (hsilent : hasResult i = false)
    (h : responseResult r = 0 ∨ ∃ v ∈ resultsOfWord w, responseResult r = BitVec.ofNat 64 v) : responseResult r = 0 := by
  rcases h with hzero | ⟨v, ⟨i', hdec', hv⟩, hresult⟩
  · exact hzero
  · obtain rfl : i = i' := Except.ok.inj (hdec.symm.trans hdec')
    rw [hresult, hv hsilent]
    rfl

end

/-! ### R74, R75 -/

/-- Settles O9: from a state that meets the invariant every word is answered, in one of the three ways. -/
theorem everyWordIsAnsweredOnce : Obligations.EveryWordIsAnsweredOnce := by
  intro s w rest hs hin
  obtain ⟨t, hstep, hanswered⟩ := step_answers hs hin
  obtain ⟨r, hresponses, hcidx, hinbox⟩ := hanswered.bookkeeping
  exact ⟨t, r, hstep, hresponses, hcidx, hinbox⟩

theorem toNat_append_eq_add {m n : Nat} (x : BitVec m) (y : BitVec n) : (x ++ y).toNat = x.toNat * 2 ^ n + y.toNat := by
  rw [BitVec.toNat_append, ← Nat.shiftLeft_add_eq_or_of_lt y.isLt, Nat.shiftLeft_eq]

/-- The number a response word is (R75). -/
theorem toNat_responseWord (st c : BitVec 8) (r : Word64) :
    (responseWord st c r).toNat = st.toNat + c.toNat * 2 ^ 8 + r.toNat * 2 ^ 64 := by
  rw [responseWord, toNat_append_eq_add, toNat_append_eq_add, toNat_append_eq_add, show (0 : BitVec 48).toNat = 0 from rfl]
  ring

/-- Settles O10: the fields are where the format puts them, and each of the three ways to answer fills them as R75 says. -/
theorem responsesHaveTheFormat : Obligations.ResponsesHaveTheFormat := by
  refine ⟨toNat_responseWord, fun v => by simp [okWord], fun c => by simp [faultWord],
    fun s t w rest r hs hin hstep hr => ?_⟩
  obtain ⟨t', hstep', hanswered⟩ := step_answers hs hin
  obtain rfl : t' = t := Host.Outcome.next.inj (hstep'.symm.trans hstep)
  obtain ⟨hformat, hst, hcause, hresult⟩ := hanswered.response hs.cause_iff hr
  exact ⟨hformat, hst, hcause, fun i hdec hsilent => responseResult_of_silent hdec hsilent hresult⟩

end Sys2Proof.Responses
end

section
/-! Proofs for 40_sieve30_basic.md R97: `below` counts the integers coprime to 30, and is inverse to `offOf`; so a bound on
an offset is a bound on its position, and COUNT counts over a range of positions. -/

namespace Sys2Proof.Positions

open Sys2Proof Sys2Proof.Machine

/-- The sieve has a bit for integers with these offsets (R12). -/
abbrev Represented (n : Nat) : Prop := n % 30 ∈ W

/-! ### `below` is the count of represented offsets -/

theorem below_add_period (q r : Nat) : below (30 * q + r) = 8 * q + below r := by
  simp only [below, Nat.mul_add_div (show 30 > 0 by decide), Nat.mul_add_mod]
  omega

theorem below_mul_thirty (q : Nat) : below (30 * q) = 8 * q := below_add_period q 0

theorem below_succ (n : Nat) : below (n + 1) = below n + if Represented n then 1 else 0 := by
  have residues : ∀ r < 30, below (r + 1) = below r + if Represented r then 1 else 0 := by decide
  have hr : n % 30 < 30 := Nat.mod_lt n (by decide)
  have shift : Represented (n % 30) ↔ Represented n := by rw [Represented, Nat.mod_mod]
  calc below (n + 1)
      = below (30 * (n / 30) + (n % 30 + 1)) := by rw [← Nat.add_assoc, Nat.div_add_mod]
    _ = 8 * (n / 30) + below (n % 30) + if Represented (n % 30) then 1 else 0 := by
        rw [below_add_period, residues _ hr, Nat.add_assoc]
    _ = below n + if Represented n then 1 else 0 := by rw [← below_add_period, Nat.div_add_mod, if_congr shift rfl rfl]

theorem below_eq_count (n : Nat) : below n = Nat.count Represented n := by
  induction n with
  | zero => rfl
  | succ n ih => rw [below_succ, Nat.count_succ, ih]

theorem below_mono {a b : Nat} (h : a ≤ b) : below a ≤ below b := by
  simpa only [below_eq_count] using Nat.count_monotone Represented h

/-! ### `below` is inverse to `offOf` -/

theorem below_offOf (pos : Nat) : below (offOf pos) = pos := by
  have slots : ∀ k < 8, below (residue k) = k := by decide
  rw [offOf, below_add_period, slots _ (Nat.mod_lt pos (by decide)), Nat.div_add_mod]

theorem represented_offOf (pos : Nat) : Represented (offOf pos) := by
  have slots : ∀ k < 8, Represented (residue k) := by decide
  rw [Represented, offOf, Nat.mul_add_mod]
  exact slots _ (Nat.mod_lt pos (by decide))

/-- A bound on an offset is a bound on its position. -/
theorem offOf_lt_iff {pos n : Nat} : offOf pos < n ↔ pos < below n := by
  constructor
  · intro h
    have := Nat.count_strict_mono (represented_offOf pos) h
    rwa [← below_eq_count, ← below_eq_count, below_offOf] at this
  · intro h
    by_contra hle
    have := below_mono (Nat.le_of_not_lt hle)
    rw [below_offOf] at this
    omega

theorem le_offOf_iff {pos n : Nat} : n ≤ offOf pos ↔ below n ≤ pos := by
  rw [← Nat.not_lt, offOf_lt_iff, Nat.not_lt]

theorem offOf_between_iff (first last pos : Nat) :
    (first ≤ offOf pos ∧ offOf pos ≤ last) ↔ (below first ≤ pos ∧ pos < below (last + 1)) := by
  rw [le_offOf_iff, ← offOf_lt_iff, Nat.lt_add_one_iff]

/-! ### COUNT over a range of positions -/

theorem countLive_eq_card (m : Memory) (size first last : Nat) :
    countLive m size first last =
      ((Finset.range (8 * size)).filter fun pos => live m pos = true ∧ first ≤ offOf pos ∧ offOf pos ≤ last).card := by
  rw [← Nat.count_eq_card_filter_range, countLive, Nat.count]
  refine List.countP_congr fun pos _ => ?_
  simp [and_assoc]

theorem countLive_eq_sum (m : Memory) {size first last : Nat} (hlast : last < 30 * size) :
    countLive m size first last = ∑ pos ∈ Finset.Ico (below first) (below (last + 1)), (live m pos).toNat := by
  have inside : below (last + 1) ≤ 8 * size := by
    rw [← below_mul_thirty]
    exact below_mono hlast
  have range : (Finset.range (8 * size)).filter (fun pos => live m pos = true ∧ first ≤ offOf pos ∧ offOf pos ≤ last) =
      (Finset.Ico (below first) (below (last + 1))).filter fun pos => live m pos = true := by
    ext pos
    rw [Finset.mem_filter, Finset.mem_filter, offOf_between_iff, Finset.mem_range, Finset.mem_Ico]
    constructor
    · rintro ⟨-, hlive, hpos⟩
      exact ⟨hpos, hlive⟩
    · rintro ⟨hpos, hlive⟩
      exact ⟨by omega, hlive, hpos⟩
  rw [countLive_eq_card, range, Finset.card_filter]
  refine Finset.sum_congr rfl fun pos _ => ?_
  cases live m pos <;> rfl

/-- Settles O26: `below` is a count, and inverse to `offOf`. -/
theorem countIsARangeOfPositions : Obligations.CountIsARangeOfPositions :=
  ⟨fun n => (below_eq_count n).trans (Nat.count_eq_card_filter_range _ n), offOf_between_iff,
    fun m _ _ _ _ hlast => countLive_eq_sum m hlast, by decide⟩

end Sys2Proof.Positions
end

section
/-! Proofs for 40_sieve30_basic.md R94 and R103: SEGSZ answers `30 * SIZE`; the SIZE that PRESIEVE sets is the least multiple
of 8 bytes that covers the segment, and check 4 of R100 keeps it from growing. -/

namespace Sys2Proof.SegmentSize

open Sys2Proof Sys2Proof.Machine

/-! ### SEGSZ -/

section
variable {s : State}

theorem execSegsz_of_created (hf : s.fault = false) (hc : s.created = true) :
    execSegsz s = .next (s.afterResult (30 * s.size.toNat)) :=
  runCommand_of_holding hf (fun _ => hc) rfl

theorem execSegsz_of_not_created (hf : s.fault = false) (hc : s.created = false) :
    execSegsz s = .next (s.afterFault .state) :=
  runCommand_of_not_created hf hc

/-- The value of SEGSZ is not cut by the 64 bits of `R`. -/
theorem responseResult_okWord_segmentSize (size : BitVec 32) :
    (responseResult (okWord (BitVec.ofNat 64 (30 * size.toNat)))).toNat = 30 * size.toNat := by
  have := size.isLt
  rw [okWord, responseResult_responseWord, BitVec.toNat_ofNat, Nat.mod_eq_of_lt (by omega)]

theorem maxBytes_lt {c : Config} (h : c.wf = true) : c.maxBytes < 2 ^ 32 := by
  simp only [Config.wf, Bool.and_eq_true, decide_eq_true_eq] at h
  obtain ⟨⟨⟨⟨⟨-, hlt⟩, -⟩, -⟩, -⟩, -⟩ := h
  exact hlt

theorem segmentSize_bounds (hs : s.Inv) (hc : s.created = true) :
    240 ∣ 30 * s.size.toNat ∧ 30 * s.size.toNat ≤ 30 * s.cfg.maxBytes ∧ 30 * s.cfg.maxBytes < 2 ^ 37 := by
  obtain ⟨-, -, hmod, -, hmax, -⟩ := hs.registers hc
  have hlt := maxBytes_lt hs.cfg_wf
  omega

/-- Settles O22: the command reads SIZE alone. -/
theorem segszAnswersSegmentSize : Obligations.SegszAnswersSegmentSize :=
  ⟨by decide, fun _ => execSegsz_of_created, fun _ => execSegsz_of_not_created,
    fun s => responseResult_okWord_segmentSize s.size, fun _ => segmentSize_bounds⟩

/-! ### The size PRESIEVE computes -/

theorem presieveSize_mod_eight (d : Nat) : presieveSize d % 8 = 0 := Nat.mul_mod_right 8 _

theorem le_presieveSize (d : Nat) : d ≤ 30 * presieveSize d := by
  unfold presieveSize
  omega

theorem presieveSize_lt (d : Nat) : 30 * presieveSize d < d + 240 := by
  unfold presieveSize
  omega

theorem presieveSize_le {d n : Nat} (hmod : n % 8 = 0) (hd : d ≤ 30 * n) : presieveSize d ≤ n := by
  unfold presieveSize
  omega

theorem presieveSize_full {n : Nat} (hmod : n % 8 = 0) : presieveSize (30 * n) = n :=
  Nat.le_antisymm (presieveSize_le hmod le_rfl) (Nat.le_of_mul_le_mul_left (le_presieveSize _) (by decide))

/-! ### What a command does to SIZE -/

/-- A command that completes has faulted, now or before, and left SIZE alone; or its effect has taken place. -/
theorem runCommand_next {checks : State → List Check} {effect : State → Host.Outcome State Fault Refusal} {t : State}
    (h : runCommand true checks effect s = .next t) :
    (t.fault = true ∧ t.size = s.size) ∨
      (s.created = true ∧ (∀ x ∈ checks s, x.1 = true) ∧ effect s = .next t) := by
  rcases runCommand_cases (needsCreated := true) (checks := checks) (effect := effect) (s := s) with
    ⟨hf, hrun⟩ | ⟨-, -, -, hrun⟩ | ⟨c, -, -, -, hrun⟩ | ⟨-, hc, hchecks, hrun⟩
  · cases hrun.symm.trans h
    exact .inl ⟨hf, rfl⟩
  · cases hrun.symm.trans h
    exact .inl ⟨rfl, rfl⟩
  · cases hrun.symm.trans h
    exact .inl ⟨rfl, rfl⟩
  · exact .inr ⟨hc rfl, (firstFailing_eq_none _).mp hchecks, hrun.symm.trans h⟩

/-- A command keeps SIZE if its effect does. -/
theorem runCommand_size {checks : State → List Check} {effect : State → Host.Outcome State Fault Refusal} {t : State}
    (heffect : effect s = .next t → t.size = s.size) (h : runCommand true checks effect s = .next t) : t.size = s.size := by
  rcases runCommand_next h with ⟨-, hsize⟩ | ⟨-, -, hrun⟩
  · exact hsize
  · exact heffect hrun

theorem size_of_whenReadable {readable : Bool} {u t : State} (h : whenReadable readable u = .next t)
    (hu : u.size = s.size) : t.size = s.size := by
  obtain ⟨-, rfl⟩ := (whenReadable_eq_next _ _ _).mp h
  exact hu

theorem crossBody_size {r : State × Nat} {i p : Nat} {counted : Bool} (h : s.crossBody i p counted = some r) :
    r.1.size = s.size := by
  rw [crossBody_frame (t := r.1) (n := r.2) h]

theorem crossAll_size {t : State} {l : List Nat} (h : State.crossAll l s = some t) : t.size = s.size := by
  rw [crossAll_frame h]

/-- Check 4 of R100. -/
theorem presieve_covered {c low high : Nat} (hchecks : ∀ x ∈ presieveChecks c low high s, x.1 = true) :
    high - low ≤ 30 * s.size.toNat := by
  simpa using hchecks (decide (high - low ≤ 30 * s.size.toNat), .range) (by simp [presieveChecks])

/-- The new SIZE fits its register, because it is at most the old one. -/
theorem toNat_openSegment_size {low high : Nat} (hs : s.Inv) (hc : s.created = true)
    (hcover : high - low ≤ 30 * s.size.toNat) :
    (s.openSegment low high).size.toNat = presieveSize (high - low) ∧ presieveSize (high - low) ≤ s.size.toNat := by
  obtain ⟨-, -, hmod, -⟩ := hs.registers hc
  have hle : presieveSize (high - low) ≤ s.size.toNat := presieveSize_le hmod hcover
  exact ⟨by rw [State.openSegment_size, BitVec.toNat_ofNat, Nat.mod_eq_of_lt (hle.trans_lt s.size.isLt)], hle⟩

/-- R103: PRESIEVE faults and leaves SIZE alone, or sets it to the computed size, which is no larger. -/
theorem execPresieve_size {c low high : Word64} {t : State} (hs : s.Inv) (h : execPresieve c low high s = .next t) :
    (t.fault = true ∧ t.size = s.size) ∨
      (t.size.toNat = presieveSize (high.toNat - low.toNat) ∧ presieveSize (high.toNat - low.toNat) ≤ s.size.toNat) := by
  rcases runCommand_next h with hfaulted | ⟨hc, hchecks, heffect⟩
  · exact .inl hfaulted
  · right
    split at heffect
    · next u hcross =>
      cases heffect
      rw [State.respond_size, crossAll_size hcross]
      exact toNat_openSegment_size hs hc (presieve_covered hchecks)
    · cases heffect

theorem execSegsz_size {t : State} (h : execSegsz s = .next t) : t.size = s.size := by
  refine runCommand_size (fun heffect => ?_) h
  cases heffect
  rfl

theorem execCount_size {a b : Word64} {t : State} (h : execCount a b s = .next t) : t.size = s.size := by
  refine runCommand_size (fun heffect => ?_) h
  split at heffect
  · cases heffect
    rfl
  · exact size_of_whenReadable heffect rfl

theorem execCrossoff_size {i p : Word64} {t : State} (h : execCrossoff i p s = .next t) : t.size = s.size := by
  refine runCommand_size (fun heffect => ?_) h
  split at heffect
  · next r hbody => exact size_of_whenReadable heffect (crossBody_size hbody)
  · cases heffect

theorem execCntfinit_size {t : State} (h : execCntfinit s = .next t) : t.size = s.size := by
  refine runCommand_size (fun heffect => ?_) h
  exact size_of_whenReadable heffect rfl

theorem execCntunset_size {k : Word64} {t : State} (h : execCntunset k s = .next t) : t.size = s.size := by
  refine runCommand_size (fun heffect => ?_) h
  refine size_of_whenReadable heffect ?_
  split <;> rfl

theorem execCntquery_size {k : Word64} {t : State} (h : execCntquery k s = .next t) : t.size = s.size := by
  refine runCommand_size (fun heffect => ?_) h
  exact size_of_whenReadable heffect rfl

theorem execCrossoffc_size {i p : Word64} {t : State} (h : execCrossoffc i p s = .next t) : t.size = s.size := by
  refine runCommand_size (fun heffect => ?_) h
  split at heffect
  · next r hbody => exact size_of_whenReadable heffect (crossBody_size hbody)
  · cases heffect

/-- R103: no command but NEW makes SIZE larger. -/
theorem exec_size_le {i : Instr} {t : State} (hs : s.Inv) (hnew : ∀ a b c, i ≠ .new a b c) (h : exec i s = .next t) :
    t.size.toNat ≤ s.size.toNat := by
  cases i with
  | new a b c => exact absurd rfl (hnew a b c)
  | segsz => rw [execSegsz_size h]
  | count a b => rw [execCount_size h]
  | presieve c low high =>
    rcases execPresieve_size hs h with ⟨-, hsize⟩ | ⟨hsize, hle⟩
    · rw [hsize]
    · rwa [hsize]
  | crossoff k p => rw [execCrossoff_size h]
  | cntfinit => rw [execCntfinit_size h]
  | cntunset k => rw [execCntunset_size h]
  | cntquery k => rw [execCntquery_size h]
  | crossoffc k p => rw [execCrossoffc_size h]

end

/-- Settles O32: PRESIEVE takes the least covering size, and the segment it covers is within the old one. -/
theorem presieveSizeIsLeast : Obligations.PresieveSizeIsLeast := by
  refine ⟨fun d => ⟨presieveSize_mod_eight d, le_presieveSize d, fun n => presieveSize_le⟩,
    fun c low high s t _ h hok hs => ?_, fun i s t => exec_size_le, fun s hs hc => ?_⟩
  · rcases execPresieve_size hs h with ⟨hfault, -⟩ | ⟨hsize, -⟩
    · exact absurd (hfault.symm.trans hok) (by decide)
    · exact hsize
  · obtain ⟨-, -, hmod, -⟩ := hs.registers hc
    refine ⟨presieveSize_full hmod, fun pos hpos => ?_⟩
    rwa [Positions.offOf_lt_iff, Positions.below_mul_thirty]

end Sys2Proof.SegmentSize
end

section
/-! Proofs for 40_sieve30_basic.md R105: the mask of PRESIEVE kills the positions at `d` and above. They all lie in the last
64-bit word, because `below` counts 64 positions for each 240 integers; so that word keeps its lowest bits. -/

namespace Sys2Proof.TailMask

open Sys2Proof Sys2Proof.Machine Sys2Proof.Positions Sys2Proof.SegmentSize

/-! ### The mask, bit by bit -/

/-- The mask of R101 step 4 over a list of positions. -/
def maskOver (d : Nat) (l : List Nat) (m : Memory) : Memory :=
  l.foldl (fun acc pos => if d ≤ offOf pos then clear acc pos else acc) m

theorem maskTail_eq_maskOver (m : Memory) (size d : Nat) : maskTail m size d = maskOver d (List.range (8 * size)) m := rfl

theorem maskOver_cons (d pos : Nat) (l : List Nat) (m : Memory) :
    maskOver d (pos :: l) m = maskOver d l (if d ≤ offOf pos then clear m pos else m) := rfl

theorem live_maskOver (d : Nat) (l : List Nat) (m : Memory) (q : Nat) :
    live (maskOver d l m) q = (live m q && !decide (q ∈ l ∧ d ≤ offOf q)) := by
  induction l generalizing m with
  | nil => simp [maskOver]
  | cons pos l ih =>
    rw [maskOver_cons, ih]
    by_cases hq : q = pos
    · subst hq
      by_cases hd : d ≤ offOf q <;> simp [hd, live_clear]
    · by_cases hd : d ≤ offOf pos <;> simp [hd, hq, live_clear]

theorem read_maskOver_isSome (d : Nat) (l : List Nat) (m : Memory) (a : Nat) :
    (Store.read (maskOver d l m) a).isSome = (Store.read m a).isSome := by
  induction l generalizing m with
  | nil => rfl
  | cons pos l ih =>
    rw [maskOver_cons, ih]
    split
    · exact read_clear_isSome m pos a
    · rfl

theorem live_maskTail (m : Memory) {size d pos : Nat} (hpos : pos < 8 * size) :
    live (maskTail m size d) pos = (live m pos && decide (offOf pos < d)) := by
  simp [maskTail_eq_maskOver, live_maskOver, hpos, ← decide_not]

/-! ### The masked positions lie in the last word -/

theorem below_mul_240 (k : Nat) : below (240 * k) = 64 * k := by
  rw [show 240 * k = 30 * (8 * k) by omega, below_mul_thirty]
  omega

theorem last_word_le_below {d : Nat} (hd : 0 < d) : 64 * (presieveSize d / 8 - 1) ≤ below d := by
  rw [← below_mul_240]
  refine below_mono ?_
  have := presieveSize_lt d
  omega

theorem below_le_positions (d : Nat) : below d ≤ 8 * presieveSize d := by
  rw [← below_mul_thirty]
  exact below_mono (le_presieveSize d)

/-! ### The last word of a filled and masked segment -/

theorem live_fillBytes (m : Memory) {size pos : Nat} (hpos : pos < 8 * size) : live (fillBytes m size) pos = true := by
  have hbyte : Store.read (fillBytes m size) (pos / 8) = some (BitVec.allOnes 8) := by
    rw [fillBytes, Store.read_overwrite, if_pos (by omega)]
    rfl
  simp only [live, hbyte, BitVec.getLsbD_allOnes, Nat.mod_lt pos (show 8 > 0 by decide), decide_true]

theorem live_mul_add (m : Memory) {a i : Nat} {b : Byte} (hread : Store.read m a = some b) (hi : i < 8) :
    live m (8 * a + i) = b.getLsbD i := by
  have hdiv : (8 * a + i) / 8 = a := by omega
  have hmod : (8 * a + i) % 8 = i := by omega
  simp [live, hdiv, hmod, hread]

/-- A byte that holds a value is determined by its eight bits. -/
theorem read_eq_of_live {m : Memory} {a : Nat} {b : Byte} (hread : (Store.read m a).isSome = true)
    (hbits : ∀ i, i < 8 → live m (8 * a + i) = b.getLsbD i) : Store.read m a = some b := by
  obtain ⟨b', hb'⟩ := Option.isSome_iff_exists.mp hread
  have heq : b' = b := BitVec.eq_of_getLsbD_eq fun i hi => by rw [← live_mul_add m hb' hi, hbits i hi]
  rw [hb', heq]

theorem getLsbD_byteOf (v t : Nat) {i : Nat} (hi : i < 8) : (MemoryView.byteOf v t).getLsbD i = v.testBit (8 * t + i) := by
  rw [MemoryView.byteOf, BitVec.getLsbD_ofNat, decide_eq_true hi, Bool.true_and, show 256 = 2 ^ 8 from rfl, ← Nat.pow_mul,
    Nat.testBit_div_two_pow, Nat.add_comm]

/-- A byte of the filled and masked segment holds a value, and its bits are the positions below `below d`. -/
theorem read_filled_maskTail (m : Memory) {size d base t : Nat} (ht : base + t < size)
    (hbelow : 8 * base ≤ below d) :
    Store.read (maskTail (fillBytes m size) size d) (base + t) =
      some (MemoryView.byteOf (2 ^ (below d - 8 * base) - 1) t) := by
  refine read_eq_of_live ?_ fun i hi => ?_
  · rw [maskTail_eq_maskOver, read_maskOver_isSome, fillBytes, Store.read_overwrite, if_pos ht]
    rfl
  · have hpos : 8 * (base + t) + i < 8 * size := by omega
    rw [live_maskTail _ hpos, live_fillBytes m hpos, Bool.true_and, getLsbD_byteOf _ _ hi, Nat.testBit_two_pow_sub_one,
      decide_eq_decide, offOf_lt_iff]
    omega

/-- R105: the last word of a filled segment keeps exactly its lowest bits. -/
theorem memRead_last_word (m : Memory) {d : Nat} (hd : 0 < d) :
    memRead (maskTail (fillBytes m (presieveSize d)) (presieveSize d) d) (presieveSize d) (presieveSize d - 8) 8 =
      some (2 ^ (below d - 64 * (presieveSize d / 8 - 1)) - 1) := by
  have hmod := presieveSize_mod_eight d
  have hlow := last_word_le_below hd
  have hhigh := below_le_positions d
  have hcover := le_presieveSize d
  have hbase : 8 * (presieveSize d - 8) = 64 * (presieveSize d / 8 - 1) := by omega
  have hfits : 2 ^ (below d - 64 * (presieveSize d / 8 - 1)) - 1 < 2 ^ (8 * 8) := by
    have : 2 ^ (below d - 64 * (presieveSize d / 8 - 1)) ≤ 2 ^ (8 * 8) := Nat.pow_le_pow_right (by decide) (by omega)
    omega
  rw [MemoryView.memRead_of_accessible _ ⟨by omega, .inr ⟨rfl, by omega⟩⟩,
    MemoryView.readBytes_of_read fun t ht => read_filled_maskTail m (by omega) (by omega), hbase,
    MemoryView.leNumber_byteOf hfits]

/-- Settles O33: the mask by bits, and the last word by its bytes. -/
theorem presieveMaskIsInTheLastWord : Obligations.PresieveMaskIsInTheLastWord :=
  ⟨fun m _ _ _ hpos => live_maskTail m hpos, fun d hd =>
    ⟨presieveSize_lt d, le_presieveSize d,
      fun _ _ hle => (last_word_le_below hd).trans (le_offOf_iff.mp hle), fun m => memRead_last_word m hd⟩⟩

end Sys2Proof.TailMask
end

section
/-! Proofs for 41_sieve30_cross_off.md R122 to R124 and R129. The residues of `W` are the units mod 30: multiplication by one
permutes them (R123). The cofactor gaps sum to the next residue, so the carries of a row telescope (R124). The wheel-init
search meets a residue within its fuel, so it stops at the least factor (R129). -/

namespace Sys2Proof.WheelTables

open Sys2Proof Sys2Proof.Machine

/-! ### Residues and their classes -/

theorem inW_iff (r : Nat) : inW r = true ↔ r ∈ W := List.contains_iff_mem

theorem residue_mem_W {k : Nat} (hk : k < 8) : residue k ∈ W := by
  have slots : ∀ k < 8, residue k ∈ W := by decide
  exact slots k hk

theorem lt_thirty_of_mem_W {r : Nat} (hr : r ∈ W) : r < 30 := by
  have slots : ∀ r ∈ W, r < 30 := by decide
  exact slots r hr

theorem residue_inj {i j : Nat} (hi : i < 8) (hj : j < 8) (h : residue i = residue j) : i = j := by
  have slots : ∀ i < 8, ∀ j < 8, residue i = residue j → i = j := by decide
  exact slots i hi j hj h

theorem cls_lt (r : Nat) : cls r < 8 := by
  rw [cls]
  split
  next hr => exact List.idxOf_lt_length_of_mem ((inW_iff r).mp hr)
  next => decide

theorem residue_cls {r : Nat} (hr : r ∈ W) : residue (cls r) = r := by
  have slots : ∀ r ∈ W, residue (cls r) = r := by decide
  exact slots r hr

theorem cls_of_not_mem_W {r : Nat} (hr : r ∉ W) : cls r = 0 := if_neg fun h => hr ((inW_iff r).mp h)

/-- R8: `W` holds the residues mod 30 that are coprime to 30. -/
theorem mod_mem_W_iff_coprime (n : Nat) : n % 30 ∈ W ↔ Nat.Coprime n 30 := by
  have slots : ∀ r < 30, r ∈ W ↔ Nat.Coprime r 30 := by decide
  rw [slots _ (Nat.mod_lt n (by decide)), Nat.Coprime, Nat.Coprime, ← Nat.gcd_rec, Nat.gcd_comm]

theorem coprime_residue {k : Nat} (hk : k < 8) : Nat.Coprime (residue k) 30 := by
  have hmem := residue_mem_W hk
  rwa [← mod_mem_W_iff_coprime, Nat.mod_eq_of_lt (lt_thirty_of_mem_W hmem)]

/-! ### BITPOS: multiplication by a unit -/

/-- R123: the bit crossed is the one of the product of the two residues. -/
theorem residue_BITPOS {c j : Nat} (hc : c < 8) (hj : j < 8) :
    residue (BITPOS c j) = (residue c * residue j) % 30 :=
  residue_cls ((mod_mem_W_iff_coprime _).mpr ((coprime_residue hc).mul_left (coprime_residue hj)))

theorem BITPOS_lt (c j : Nat) : BITPOS c j < 8 := cls_lt _

theorem BITPOS_inj {c i j : Nat} (hc : c < 8) (hi : i < 8) (hj : j < 8) (h : BITPOS c i = BITPOS c j) : i = j := by
  have hprod : residue c * residue i ≡ residue c * residue j [MOD 30] := by
    rw [Nat.ModEq, ← residue_BITPOS hc hi, h, residue_BITPOS hc hj]
  have hmod : residue i ≡ residue j [MOD 30] := hprod.cancel_left_of_coprime (coprime_residue hc).symm
  exact residue_inj hi hj
    (hmod.eq_of_lt_of_lt (lt_thirty_of_mem_W (residue_mem_W hi)) (lt_thirty_of_mem_W (residue_mem_W hj)))

/-- R123: one cycle crosses one bit of each residue. -/
theorem BITPOS_row_perm {c : Nat} (hc : c < 8) : ((List.range 8).map (BITPOS c)).Perm (List.range 8) := by
  have hnodup : ((List.range 8).map (BITPOS c)).Nodup :=
    List.nodup_range.map_on fun i hi j hj => BITPOS_inj hc (List.mem_range.mp hi) (List.mem_range.mp hj)
  have hsub : (List.range 8).map (BITPOS c) ⊆ List.range 8 := by
    simp [List.subset_def, BITPOS_lt]
  exact (hnodup.subperm hsub).perm_of_length_le (by simp)

/-! ### DF and DC: gaps that sum, carries that telescope -/

/-- R122: the gaps before a position sum to its cofactor residue. -/
theorem residue_eq_sum_DF {j : Nat} (hj : j < 8) : residue j = 1 + ((List.range j).map DF).sum := by
  have slots : ∀ j < 8, residue j = 1 + ((List.range j).map DF).sum := by decide
  exact slots j hj

theorem sum_DF : ((List.range 8).map DF).sum = 30 := by decide

/-- The carries of the first `n` steps add up to the carry of the product they have reached. -/
theorem sum_DC {c n : Nat} (hc : c < 8) (hn : n ≤ 8) :
    ((List.range n).map (DC c)).sum = residue c * (1 + ((List.range n).map DF).sum) / 30 := by
  induction n with
  | zero =>
    have hlt : residue c < 30 := lt_thirty_of_mem_W (residue_mem_W hc)
    simp [Nat.div_eq_of_lt hlt]
  | succ j ih =>
    have hstep : residue c * residue j / 30 ≤ residue c * (residue j + DF j) / 30 :=
      Nat.div_le_div_right (Nat.mul_le_mul_left _ (Nat.le_add_right _ _))
    rw [List.sum_range_succ, List.sum_range_succ, ih (by omega), ← Nat.add_assoc, ← residue_eq_sum_DF hn, DC]
    omega

/-- R124: a whole cycle of class `c` carries `W[c]`. -/
theorem sum_DC_row {c : Nat} (hc : c < 8) : ((List.range 8).map (DC c)).sum = residue c := by
  have hlt : residue c < 30 := lt_thirty_of_mem_W (residue_mem_W hc)
  rw [sum_DC hc le_rfl, sum_DF]
  omega

/-- Settles O34: the printed tables by evaluation, the rows by the unit argument and the telescoping sum. -/
theorem stepTablesAreThePrintedOnes : Obligations.StepTablesAreThePrintedOnes :=
  ⟨by decide, sum_DF, by decide, fun _ hc => BITPOS_row_perm (List.mem_range.mp hc), by decide,
    fun _ hc => sum_DC_row (List.mem_range.mp hc)⟩

/-! ### wheel_init: the least factor -/

/-- The factor `g` takes the cofactor `q` to one coprime to 30. -/
abbrev Hits (q g : Nat) : Prop := inW ((q + g) % 30) = true

/-- `f` is the least factor from `start` on that hits. -/
def IsLeastFactorFrom (q start f : Nat) : Prop := Hits q f ∧ ∀ g, start ≤ g → g < f → ¬ Hits q g

/-- A search with a hit within its fuel ends at the least hit. -/
theorem factorFrom_isLeast {q fuel start : Nat} (h : ∃ g, start ≤ g ∧ g < start + fuel ∧ Hits q g) :
    IsLeastFactorFrom q start (factorFrom q fuel start) := by
  induction fuel generalizing start with
  | zero =>
    obtain ⟨g, hle, hlt, -⟩ := h
    omega
  | succ fuel ih =>
    rw [factorFrom]
    split
    next hit => exact ⟨hit, fun g hle hlt => absurd hlt (by omega)⟩
    next miss =>
      have beyond {g : Nat} (hle : start ≤ g) (hg : Hits q g) : start + 1 ≤ g :=
        Nat.lt_of_le_of_ne hle fun heq => miss (heq ▸ hg)
      obtain ⟨g, hle, hlt, hg⟩ := h
      obtain ⟨hhit, hleast⟩ := ih ⟨g, beyond hle hg, by omega, hg⟩
      exact ⟨hhit, fun g' hle' hlt' hg' => hleast g' (beyond hle' hg') hlt' hg'⟩

/-- No number is further than 5 from the next one coprime to 30, so the fuel of `wheelInit` suffices. -/
theorem exists_hit (q : Nat) : ∃ g < 6, Hits q g := by
  have residues : ∀ r < 30, ∃ g < 6, Hits r g := by decide
  obtain ⟨g, hg, hit⟩ := residues (q % 30) (Nat.mod_lt q (by decide))
  exact ⟨g, hg, by rwa [Hits, Nat.mod_add_mod] at hit⟩

theorem wheelInit_isLeast (q : Nat) : IsLeastFactorFrom q 0 (wheelInit q).1 :=
  have ⟨g, hg, hit⟩ := exists_hit q
  factorFrom_isLeast ⟨g, g.zero_le, by omega, hit⟩

theorem wheelInit_index (q : Nat) : (wheelInit q).2 = cls ((q + (wheelInit q).1) % 30) := rfl

theorem wheelOffsets_of_not_mem_W {r : Nat} (hr : r ∉ W) : wheelOffsets r = 0 := by
  rw [wheelOffsets, cls_of_not_mem_W hr]

/-- Settles O37: the search finds the least factor for every `q`; the printed tables by evaluation. -/
theorem wheelInitIsTheLeastFactor : Obligations.WheelInitIsTheLeastFactor := by
  refine ⟨fun q => ?_, by decide, by decide, fun _ _ => rfl, fun _ => wheelOffsets_of_not_mem_W⟩
  obtain ⟨hhit, hleast⟩ := wheelInit_isLeast q
  exact ⟨hhit, fun f hf => Bool.eq_false_iff.mpr (hleast f f.zero_le hf), wheelInit_index q⟩

end Sys2Proof.WheelTables
end

section
/-! Proofs for 60_exceptions.md R172 and R174. Every command is `runCommand` of an effect that leaves the bookkeeping, FAULT
and CAUSE among it, alone. So in any state, reachable or not, a next state is a sticky answer, a fault entry or a result;
only a fault entry raises FAULT, and every answer given with FAULT set has `ST = 1`. -/

namespace Sys2Proof.Faults

open Sys2Proof Sys2Proof.Machine Sys2Proof.Responses

/-! ### Effects that stop the model or complete -/

/-- An outcome that is a next state is that of a completed command. -/
def CompletesIfNext (s : State) (o : Host.Outcome State Fault Refusal) : Prop :=
  ∀ t, o = .next t → Completes s Set.univ o

section
variable {s : State}

theorem completesIfNext_respond {u : State} (hu : SameBookkeeping s u) (v : Nat) :
    CompletesIfNext s (.next (u.respond v)) :=
  fun _ _ => ⟨u, v, rfl, hu, trivial⟩

theorem completesIfNext_fault (f : Fault) : CompletesIfNext s (.fault f) := nofun

theorem completesIfNext_whenReadable {readable : Bool} {u : State} {v : Nat} (hu : SameBookkeeping s u) :
    CompletesIfNext s (whenReadable readable (u.respond v)) := by
  intro t h
  obtain ⟨hreadable, -⟩ := (whenReadable_eq_next _ _ _).mp h
  exact completes_whenReadable hreadable hu trivial

end

/-! ### Every command runs such an effect -/

/-- `run` is R176's order of checks before an effect that stops the model or completes. -/
def IsCommand (run : State → Host.Outcome State Fault Refusal) : Prop :=
  ∃ needsCreated checks effect,
    (∀ s, run s = runCommand needsCreated checks effect s) ∧ ∀ s, CompletesIfNext s (effect s)

theorem execNew_isCommand (a b c : Word64) : IsCommand (execNew a b c) :=
  ⟨_, _, _, fun _ => rfl, fun s =>
    completesIfNext_respond (s := s) (u := s.newSieve a.toNat b.toNat c.toNat) ⟨rfl, rfl, rfl, rfl, rfl⟩ 0⟩

theorem execSegsz_isCommand : IsCommand execSegsz :=
  ⟨_, _, _, fun _ => rfl, fun s => completesIfNext_respond (.refl s) _⟩

theorem execCount_isCommand (a b : Word64) : IsCommand (execCount a b) := by
  refine ⟨_, _, _, fun _ => rfl, fun s => ?_⟩
  split
  · exact completesIfNext_respond (.refl s) 0
  · exact completesIfNext_whenReadable (.refl s)

theorem execPresieve_isCommand (c low high : Word64) : IsCommand (execPresieve c low high) := by
  refine ⟨_, _, _, fun _ => rfl, fun s => ?_⟩
  split
  · next hcross =>
    have book := sameBookkeeping_of_crossing (crossAll_frame hcross)
    exact completesIfNext_respond (s := s) ⟨book.fault, book.cause, book.responses, book.cidx, book.inbox⟩ 0
  · exact completesIfNext_fault _

theorem crossBody_sameBookkeeping {s : State} {i p : Nat} {counted : Bool} {r : State × Nat}
    (h : s.crossBody i p counted = some r) : SameBookkeeping s r.1 :=
  sameBookkeeping_of_crossing (crossBody_frame (t := r.1) (n := r.2) h)

theorem execCrossoff_isCommand (i p : Word64) : IsCommand (execCrossoff i p) := by
  refine ⟨_, _, _, fun _ => rfl, fun s => ?_⟩
  split
  · next hbody =>
    have book := crossBody_sameBookkeeping hbody
    exact completesIfNext_whenReadable ⟨book.fault, book.cause, book.responses, book.cidx, book.inbox⟩
  · exact completesIfNext_fault _

theorem execCrossoffc_isCommand (i p : Word64) : IsCommand (execCrossoffc i p) := by
  refine ⟨_, _, _, fun _ => rfl, fun s => ?_⟩
  split
  · next hbody => exact completesIfNext_whenReadable (crossBody_sameBookkeeping hbody)
  · exact completesIfNext_fault _

theorem execCntfinit_isCommand : IsCommand execCntfinit :=
  ⟨_, _, _, fun _ => rfl, fun _ => completesIfNext_whenReadable ⟨rfl, rfl, rfl, rfl, rfl⟩⟩

theorem execCntunset_isCommand (k : Word64) : IsCommand (execCntunset k) := by
  refine ⟨_, _, _, fun _ => rfl, fun s => ?_⟩
  split
  · exact completesIfNext_whenReadable ⟨rfl, rfl, rfl, rfl, rfl⟩
  · exact completesIfNext_whenReadable (.refl s)

theorem execCntquery_isCommand (k : Word64) : IsCommand (execCntquery k) :=
  ⟨_, _, _, fun _ => rfl, fun s => completesIfNext_whenReadable (.refl s)⟩

theorem exec_isCommand (i : Instr) : IsCommand (exec i) := by
  cases i with
  | new a b c => exact execNew_isCommand a b c
  | segsz => exact execSegsz_isCommand
  | count a b => exact execCount_isCommand a b
  | presieve c low high => exact execPresieve_isCommand c low high
  | crossoff k p => exact execCrossoff_isCommand k p
  | cntfinit => exact execCntfinit_isCommand
  | cntunset k => exact execCntunset_isCommand k
  | cntquery k => exact execCntquery_isCommand k
  | crossoffc k p => exact execCrossoffc_isCommand k p

/-! ### Commands answer, in any state -/

section
variable {s t : State}

/-- R174: no command looks further than FAULT. -/
theorem exec_of_fault (i : Instr) (hf : s.fault = true) : exec i s = .next s.stickyAnswer := by
  obtain ⟨_, _, _, hrun, -⟩ := exec_isCommand i
  rw [hrun, runCommand_of_fault hf]

/-- A next state of a command is one of the three answers; where a needed cell holds no value there is none. -/
theorem answered_of_exec_next {i : Instr} (h : exec i s = .next t) : Answered s Set.univ t := by
  obtain ⟨needsCreated, checks, effect, hrun, heffect⟩ := exec_isCommand i
  rw [hrun] at h
  have answers : Answers s Set.univ (runCommand needsCreated checks effect s) := by
    cases hf : s.fault with
    | true => exact ⟨_, runCommand_of_fault hf, .sticky hf⟩
    | false =>
      refine runCommand_answers fun hc hchecks => heffect s t ?_
      rw [← h, runCommand_of_holding hf hc ((firstFailing_eq_none _).mpr hchecks)]
  obtain ⟨t', ht', hanswered⟩ := answers
  obtain rfl : t' = t := Host.Outcome.next.inj (ht'.symm.trans h)
  exact hanswered

theorem answerIllegal_of_fault (hf : s.fault = true) : s.answerIllegal = s.stickyAnswer := if_pos hf

theorem answerIllegal_answered : Answered s Set.univ s.answerIllegal := by
  rcases answerIllegal_cases s with ⟨hf, heq⟩ | ⟨hf, heq⟩
  · exact heq ▸ .sticky hf
  · exact heq ▸ .faulted .illegal hf

/-! ### What the three answers do to FAULT -/

theorem answered_eq_sticky {results : Set Nat} (h : Answered s results t) (hf : s.fault = true) : t = s.stickyAnswer := by
  cases h with
  | sticky _ => rfl
  | faulted c hclear => exact absurd (hf.symm.trans hclear) (by decide)
  | completed u v hclear _ _ => exact absurd (hf.symm.trans hclear) (by decide)

/-- R172: only a fault entry raises FAULT. -/
theorem answered_eq_raiseFault {results : Set Nat} (h : Answered s results t) (hf : s.fault = false) (ht : t.fault = true) :
    ∃ c, t = s.raiseFault c := by
  cases h with
  | sticky hset => exact absurd (hf.symm.trans hset) (by decide)
  | faulted c _ => exact ⟨c, rfl⟩
  | completed u v _ hu _ => exact absurd (hf.symm.trans (hu.fault.symm.trans ht)) (by decide)

theorem successful_answer_faultWord (c : BitVec 8) : (s.answer (faultWord c)).successful = false := by
  simp [State.successful, faultWord]

/-- R202: an answer given with FAULT set has `ST = 1`. -/
theorem answered_not_successful {results : Set Nat} (h : Answered s results t) (ht : t.fault = true) :
    t.successful = false := by
  cases hf : s.fault with
  | true => rw [answered_eq_sticky h hf, State.stickyAnswer, successful_answer_faultWord]
  | false =>
    obtain ⟨c, rfl⟩ := answered_eq_raiseFault h hf ht
    rw [State.raiseFault, successful_answer_faultWord]

/-! ### What a step does to FAULT -/

theorem cfg_wf_of_step_next (h : step s = .next t) : s.cfg.wf = true := by
  by_contra hwf
  rw [step, if_neg hwf] at h
  cases h

/-- All a step to a next state can be: idle, the reset input, or an answer to a word. -/
theorem step_next_cases (h : step s = .next t) :
    (s.inbox = [] ∧ t = s) ∨
    (∃ rest, s.inbox = .reset :: rest ∧ t = ({ s with inbox := rest } : State).applyReset) ∨
    (∃ w rest, s.inbox = .command w :: rest ∧ Answered { s with inbox := rest } Set.univ t) := by
  rcases step_of_fetch (cfg_wf_of_step_next h) with ⟨hin, hs⟩ | ⟨rest, hin, hs⟩ | ⟨w, rest, i, hin, -, hs⟩ |
    ⟨w, rest, e, hin, -, hs⟩
  · exact .inl ⟨hin, Host.Outcome.next.inj (h.symm.trans hs)⟩
  · exact .inr (.inl ⟨rest, hin, Host.Outcome.next.inj (h.symm.trans hs)⟩)
  · exact .inr (.inr ⟨w, rest, hin, answered_of_exec_next (hs.symm.trans h)⟩)
  · obtain rfl := Host.Outcome.next.inj (hs.symm.trans h)
    exact .inr (.inr ⟨w, rest, hin, answerIllegal_answered⟩)

theorem step_command_of_fault {w : CommandWord} {rest : List HostInput} (hcfg : s.cfg.wf = true)
    (hin : s.inbox = .command w :: rest) (hf : s.fault = true) :
    step s = .next ({ s with inbox := rest } : State).stickyAnswer := by
  cases hdec : decode w with
  | ok i => rw [step_of_legal hcfg hin hdec, exec_of_fault i (s := { s with inbox := rest }) hf]
  | error e => rw [OpcodeMap.step_of_illegal hcfg hin hdec, answerIllegal_of_fault (s := { s with inbox := rest }) hf]

theorem step_reset {rest : List HostInput} (hcfg : s.cfg.wf = true) (hin : s.inbox = .reset :: rest) :
    step s = .next ({ s with inbox := rest } : State).applyReset := by
  simp [step, fetch, hcfg, hin]

theorem inbox_of_fault_cleared (hf : s.fault = true) (h : step s = .next t) (ht : t.fault = false) :
    ∃ rest, s.inbox = .reset :: rest := by
  rcases step_next_cases h with ⟨-, rfl⟩ | ⟨rest, hin, -⟩ | ⟨w, rest, -, hanswered⟩
  · exact absurd (hf.symm.trans ht) (by decide)
  · exact ⟨rest, hin⟩
  · rw [answered_eq_sticky hanswered hf] at ht
    exact absurd (hf.symm.trans ht) (by decide)

/-! ### Runs -/

/-- A state with FAULT set has given a response with `ST = 1` (R202). -/
def FaultReported (s : State) : Prop := s.fault = true → s.successful = false

theorem step_keeps_faultReported (hs : FaultReported s) (h : step s = .next t) : FaultReported t := by
  rcases step_next_cases h with ⟨-, rfl⟩ | ⟨rest, -, rfl⟩ | ⟨w, rest, -, hanswered⟩
  · exact hs
  · exact nofun
  · exact answered_not_successful hanswered

/-- What every step keeps holds at the end of every run. -/
theorem run_keeps {M : Host.Core} {P : M.State → Prop} (hstep : ∀ {s t}, P s → M.step s = .next t → P t) {n : Nat}
    {s t : M.State} (hs : P s) (h : M.run n s = .next t) : P t := by
  induction n generalizing s with
  | zero =>
    obtain rfl : s = t := Host.Outcome.next.inj h
    exact hs
  | succ n ih =>
    rw [Host.Core.run] at h
    split at h
    · next u hu => exact ih (hstep hs hu) h
    · cases h
    · cases h

end

/-! ### R172, R174 -/

/-- Settles O12: a faulted state's only answer is the sticky one; that a fault is reported holds after reset and every step
keeps it. -/
theorem faultIsSticky : Obligations.FaultIsSticky := by
  refine ⟨fun s w rest => step_command_of_fault, fun i s => exec_of_fault i, fun c => by simp [faultWord],
    fun s t => inbox_of_fault_cleared, fun s rest hcfg hin => ⟨_, step_reset hcfg hin, rfl⟩,
    fun s t hs h => step_keeps_faultReported hs h, fun cfg ws n t h => ?_⟩
  have atReset : FaultReported ((State.afterReset cfg).send ws) := nofun
  exact run_keeps (M := core) step_keeps_faultReported atReset h

/-- Settles O13: a step on a word gives an answer, and of the three answers only fault entry raises FAULT. -/
theorem faultsArePrecise : Obligations.FaultsArePrecise := by
  intro s t w rest hf hin h ht
  rcases step_next_cases h with ⟨hidle, -⟩ | ⟨rest', hreset, -⟩ | ⟨w', rest', hword, hanswered⟩
  · rw [hidle] at hin
    cases hin
  · rw [hreset] at hin
    cases hin
  · rw [hword] at hin
    cases hin
    exact answered_eq_raiseFault hanswered hf ht

end Sys2Proof.Faults
end

section
/-! Proofs for 30_encoding.md R71 to R78: a word decodes to a command exactly when its fields are the command's, that is, when
it is the command's encoding. -/

namespace Sys2Proof.Codec

open Sys2Proof Sys2Proof.Machine Sys2Proof.OpcodeMap

/-! ### The fields of a command -/

/-- An operand field of a command's word: the operand where the command uses the field, 0 elsewhere (R72). -/
def operandOrZero (used : Bool) (x : Word64) : Word64 := if used then x else 0

theorem operandOrZero_eq {used : Bool} {x : Word64} (h : used = false → x = 0) : operandOrZero used x = x := by
  cases used with
  | false => exact (h rfl).symm
  | true => rfl

/-- The command an opcode and operands spell has those operands in the fields its opcode uses, and 0 in the others. -/
theorem fields_of_instrOf {op : BitVec 8} {a b c : Word64} {i : Instr} (h : instrOf op a b c = some i) :
    ∃ used, operandsUsed op = some used ∧
      i.fields = ⟨op, 0, operandOrZero used.1 a, operandOrZero used.2.1 b, operandOrZero used.2.2 c⟩ := by
  unfold instrOf at h
  split at h
  case h_10 => cases h
  all_goals
    next hnat =>
    have hop := congrArg (BitVec.ofNat 8) hnat
    rw [BitVec.ofNat_toNat, BitVec.setWidth_eq] at hop
    subst hop
    cases h
    exact ⟨_, rfl, rfl⟩

theorem fields_eq_of_spelled {f : CommandFields} {i : Instr} (hspells : instrOf f.op f.a f.b f.c = some i)
    (hwf : f.wf = true) : f = i.fields := by
  obtain ⟨used, hused, hfields⟩ := fields_of_instrOf hspells
  obtain ⟨used', hused', hrsv, ha, hb, hc⟩ := (fields_wf_iff f).mp hwf
  obtain rfl : used = used' := Option.some.inj (hused.symm.trans hused')
  rw [hfields, operandOrZero_eq ha, operandOrZero_eq hb, operandOrZero_eq hc, ← hrsv]

/-- The fields of a command spell it and fit the format. -/
theorem spelled_fields (i : Instr) :
    instrOf i.fields.op i.fields.a i.fields.b i.fields.c = some i ∧ i.fields.wf = true := by
  cases i <;> exact ⟨rfl, rfl⟩

/-! ### Decoding -/

theorem decode_eq_ok_iff_spelled (w : CommandWord) (i : Instr) :
    decode w = .ok i ↔
      instrOf (fieldsOf w).op (fieldsOf w).a (fieldsOf w).b (fieldsOf w).c = some i ∧ (fieldsOf w).wf = true := by
  have rsv_of_wf : (fieldsOf w).wf = true → (fieldsOf w).rsv = 0 := fun hwf => by
    obtain ⟨-, -, hrsv, -⟩ := (fields_wf_iff _).mp hwf
    exact hrsv
  unfold decode
  dsimp only
  split
  · next hnone => simp [hnone]
  · next i' hsome =>
    rw [hsome]
    split
    · next hrsv =>
      have hrsv : (fieldsOf w).rsv ≠ 0 := by simpa using hrsv
      simp [mt rsv_of_wf hrsv]
    · split <;> simp_all

/-- A word decodes to a command exactly when it is the command's encoding. -/
theorem decode_eq_ok_iff (w : CommandWord) (i : Instr) : decode w = .ok i ↔ encode i = w := by
  have fields : decode w = .ok i ↔ i.fields = fieldsOf w := by
    rw [decode_eq_ok_iff_spelled]
    constructor
    · rintro ⟨hspells, hwf⟩
      exact (fields_eq_of_spelled hspells hwf).symm
    · intro h
      rw [← h]
      exact spelled_fields i
  rw [fields, ← fieldsOf_inj, encode, fieldsOf_wordOf]

/-- Settles O1: the encoding of a command is the word that decodes to it. -/
theorem decodeEncodeRoundTrip : Obligations.DecodeEncodeRoundTrip :=
  fun i _ => (decode_eq_ok_iff (encode i) i).mpr rfl

/-- Settles O2: no other word decodes to it. -/
theorem encodeDecodeExact : Obligations.EncodeDecodeExact :=
  fun w i => (decode_eq_ok_iff w i).mp

/-! ### The opcode map -/

/-- The row that has a command's mnemonic is the row of its opcode (R76). -/
theorem mnemonic_eq_iff (i : Instr) :
    ∀ r ∈ opcodeRows, r.mnemonic = i.mnemonic ↔ (fieldsOf r.value).op = i.opcode := by
  cases i <;> (simp only [Instr.mnemonic, Instr.opcode]; decide)

theorem spells_encode_iff {r : OpcodeRow} (hr : r ∈ opcodeRows) (i : Instr) :
    r.spells (encode i) = true ↔ r.mnemonic = i.mnemonic := by
  obtain ⟨used, hrow⟩ := isRowOf_of_mem hr
  have hfields : fieldsOf (encode i) = i.fields := fieldsOf_wordOf _
  have hopcode : i.fields.op = i.opcode := by cases i <;> rfl
  rw [spells_iff hrow, mnemonic_eq_iff i r hr, hfields, hopcode]
  constructor
  · rintro ⟨hop, -⟩
    exact hop.symm
  · intro hop
    obtain ⟨used', hused', hrest⟩ := (fields_wf_iff _).mp (spelled_fields i).2
    rw [hopcode, ← hop] at hused'
    obtain rfl : used = used' := Option.some.inj (hrow.1.symm.trans hused')
    exact ⟨hop.symm, hrest⟩

/-- Settles O3: a word that decodes is an encoding, whose row is its command's; the decoder refuses no spelled word. -/
theorem decodeAgreesWithOpcodeMap : Obligations.DecodeAgreesWithOpcodeMap := by
  refine ⟨fun w i hdec r hr => ?_, fun w hspelled => ?_⟩
  · rw [← (decode_eq_ok_iff w i).mp hdec]
    exact spells_encode_iff hr i
  · have hwf : (fieldsOf w).wf = true := (fields_wf_iff_spelled w).mpr hspelled
    cases hdec : decode w with
    | ok i => exact ⟨i, rfl⟩
    | error e => exact absurd (hwf.symm.trans ((decode_error_iff w).mp ⟨e, hdec⟩)) (by decide)

/-- Settles O5: the six words of the vectors, each decoded by evaluation. -/
theorem sampleWordsDecode : Obligations.SampleWordsDecode :=
  ⟨rfl, rfl, rfl, rfl, rfl, rfl⟩

end Sys2Proof.Codec
end

section
/-! Proofs for 20_memory.md R52: a word is sent as its little-endian bytes, which determine it. -/

namespace Sys2Proof.Transport

open Sys2Proof Sys2Proof.Machine Sys2Proof.MemoryView

theorem extractLsb'_eq_byteOf {bits : Nat} (w : BitVec bits) (t : Nat) : w.extractLsb' (8 * t) 8 = byteOf w.toNat t := by
  apply BitVec.eq_of_toNat_eq
  rw [BitVec.extractLsb'_toNat, toNat_byteOf, Nat.shiftRight_eq_div_pow, Nat.pow_mul]

theorem serialise_eq_map_byteOf {bits : Nat} (count : Nat) (w : BitVec bits) :
    serialise count w = (List.range count).map (byteOf w.toNat) :=
  List.map_congr_left fun t _ => extractLsb'_eq_byteOf w t

/-- The model's reading of a byte list is the little-endian number of its bytes. -/
theorem natOfBytes_map_range (f : Nat → Byte) (n : Nat) : natOfBytes ((List.range n).map f) = leNumber f n := by
  induction n generalizing f with
  | zero => rfl
  | succ n ih =>
    rw [leNumber_succ, ← ih, List.range_succ_eq_map, List.map_cons, List.map_map]
    rfl

theorem natOfBytes_serialise {n : Nat} (w : BitVec (8 * n)) : natOfBytes (serialise n w) = w.toNat := by
  rw [serialise_eq_map_byteOf, natOfBytes_map_range, leNumber_byteOf w.isLt]

theorem getElem?_serialise_eq {bits count t : Nat} (w : BitVec bits) (h : t < count) :
    (serialise count w)[t]? = some (BitVec.ofNat 8 (w.toNat / 256 ^ t)) := by
  rw [getElem?_serialise w h, extractLsb'_eq_byteOf, byteOf]

theorem decodeBytes_bytesOfWord (w : CommandWord) : decodeBytes (bytesOfWord w) = decode w := by
  have hnat : natOfBytes (serialise 32 w) = w.toNat := natOfBytes_serialise (n := 32) w
  rw [decodeBytes, bytesOfWord, if_pos (length_serialise 32 w), hnat, BitVec.ofNat_toNat, BitVec.setWidth_eq]

theorem responseOfBytes_bytesOfResponse (r : ResponseWord) : responseOfBytes (bytesOfResponse r) = some r := by
  have hnat : natOfBytes (serialise 16 r) = r.toNat := natOfBytes_serialise (n := 16) r
  rw [responseOfBytes, bytesOfResponse, if_pos (length_serialise 16 r), hnat, BitVec.ofNat_toNat, BitVec.setWidth_eq]

/-- Settles O6: both words are read back from their bytes, which are those of their little-endian number. -/
theorem serialisedWordsDecode : Obligations.SerialisedWordsDecode :=
  ⟨fun w => ⟨length_serialise 32 w, fun _ => getElem?_serialise_eq w, decodeBytes_bytesOfWord w⟩,
    fun r => ⟨length_serialise 16 r, fun _ => getElem?_serialise_eq r, responseOfBytes_bytesOfResponse r⟩,
    fun _ hlen => ⟨_, if_neg hlen⟩, fun _ hlen => if_neg hlen⟩

end Sys2Proof.Transport
end

section
/-! Proofs for 30_encoding.md R80: a command is written as its mnemonic and its used operands. -/

namespace Sys2Proof.AssemblerText

open Sys2Proof Sys2Proof.Machine

theorem operandField_eq_some_iff {n : Nat} {x : Word64} : operandField n = some x ↔ n = x.toNat := by
  have hx := x.isLt
  unfold operandField
  constructor
  · intro h
    split at h
    · next hn => rw [← Option.some.inj h, BitVec.toNat_ofNat, Nat.mod_eq_of_lt hn]
    · cases h
  · rintro rfl
    simp [hx]

/-- Written operands that fit their fields are the numbers of the fields. -/
theorem mapM_operandField_eq_some_iff {operands : List Nat} {fields : List Word64} :
    operands.mapM operandField = some fields ↔ operands = fields.map BitVec.toNat := by
  induction operands generalizing fields with
  | nil => cases fields <;> simp
  | cons n operands ih =>
    cases fields with
    | nil => simp [Option.bind_eq_some_iff]
    | cons x fields => simp [Option.bind_eq_some_iff, operandField_eq_some_iff, ih]

/-- The used operand fields of a command, in the order A, B, C (R73). -/
def usedFields : Instr → List Word64
  | .new a b c => [a, b, c]
  | .segsz => []
  | .count a b => [a, b]
  | .presieve a b c => [a, b, c]
  | .crossoff a b => [a, b]
  | .cntfinit => []
  | .cntunset a => [a]
  | .cntquery a => [a]
  | .crossoffc a b => [a, b]

theorem operandsOf_eq (i : Instr) : operandsOf i = (usedFields i).map BitVec.toNat := by cases i <;> rfl

/-- The mnemonic and the number of fields pick one arm of `assemble`, and it puts the fields in their places. -/
theorem assemble_fields_eq_some_iff (mnemonic : String) (fields : List Word64) (i : Instr) :
    assemble mnemonic (fields.map BitVec.toNat) = some i ↔ mnemonic = i.mnemonic ∧ fields = usedFields i := by
  rw [assemble, mapM_operandField_eq_some_iff.mpr rfl]
  constructor
  · intro h
    dsimp only at h
    repeat' split at h
    all_goals cases h <;> exact ⟨beq_iff_eq.mp ‹(mnemonic == _) = true›, rfl⟩
  · rintro ⟨rfl, rfl⟩
    cases i <;> rfl

theorem assemble_eq_some_iff (mnemonic : String) (operands : List Nat) (i : Instr) :
    assemble mnemonic operands = some i ↔
      ∃ fields, operands = fields.map BitVec.toNat ∧ mnemonic = i.mnemonic ∧ fields = usedFields i := by
  constructor
  · intro h
    cases hfields : operands.mapM operandField with
    | none => simp [assemble, hfields] at h
    | some fields =>
      obtain rfl := mapM_operandField_eq_some_iff.mp hfields
      exact ⟨fields, rfl, (assemble_fields_eq_some_iff _ _ _).mp h⟩
  · rintro ⟨fields, rfl, h⟩
    exact (assemble_fields_eq_some_iff _ _ _).mpr h

/-- Settles O7: written operands are the numbers of operand fields, which with the mnemonic pick one command. -/
theorem assemblingTheNotationGivesTheCommand : Obligations.AssemblingTheNotationGivesTheCommand := by
  intro i mnemonic operands
  rw [assemble_eq_some_iff, operandsOf_eq]
  constructor
  · rintro ⟨_, rfl, hmnemonic, rfl⟩
    exact ⟨hmnemonic, rfl⟩
  · rintro ⟨hmnemonic, rfl⟩
    exact ⟨_, rfl, hmnemonic, rfl⟩

end Sys2Proof.AssemblerText
end

section
/-! Proofs for the command rules that are about checks and their order (60_exceptions.md R173, R176). Each command's check
list holds exactly when the conditions its rule names hold; its first failing check gives the cause. -/

namespace Sys2Proof.Commands

open Sys2Proof Sys2Proof.Machine Sys2Proof.WheelTables

/-! ### The arms of `exec` -/

theorem exec_new (a b c : Word64) (s : State) : exec (.new a b c) s = execNew a b c s := rfl
theorem exec_segsz (s : State) : exec .segsz s = execSegsz s := rfl
theorem exec_count (a b : Word64) (s : State) : exec (.count a b) s = execCount a b s := rfl
theorem exec_presieve (c low high : Word64) (s : State) :
    exec (.presieve c low high) s = execPresieve c low high s := rfl
theorem exec_crossoff (i p : Word64) (s : State) : exec (.crossoff i p) s = execCrossoff i p s := rfl
theorem exec_cntfinit (s : State) : exec .cntfinit s = execCntfinit s := rfl
theorem exec_cntunset (k : Word64) (s : State) : exec (.cntunset k) s = execCntunset k s := rfl
theorem exec_cntquery (k : Word64) (s : State) : exec (.cntquery k) s = execCntquery k s := rfl
theorem exec_crossoffc (i p : Word64) (s : State) : exec (.crossoffc i p) s = execCrossoffc i p s := rfl

/-! ### The conditions behind the checks -/

section
variable {s : State}

theorem sievingOperand_iff (p : Nat) : sievingOperand p = true ↔ 7 ≤ p ∧ p < 2 ^ 32 ∧ p % 30 ∈ W := by
  simp [sievingOperand, inW_iff, and_assoc]

theorem sievingOperand_eq_false_iff (p : Nat) : sievingOperand p = false ↔ p < 7 ∨ 2 ^ 32 ≤ p ∨ p % 30 ∉ W := by
  rw [← Bool.not_eq_true, sievingOperand_iff, not_and_or, not_and_or, Nat.not_le, Nat.not_lt]

theorem classAgrees_iff (i p : Nat) :
    s.classAgrees i p = true ↔
      ∀ e, i < s.wheelCount → Store.read s.wheel i = some e → e.idx.toNat / 8 = cls (p % 30) := by
  unfold State.classAgrees
  by_cases hi : i < s.wheelCount
  · rw [if_pos hi]
    cases Store.read s.wheel i <;> simp [hi]
  · simp [hi]

theorem classAgrees_eq_false_of {i p : Nat} {e : WheelEntry} (hi : i < s.wheelCount) (he : Store.read s.wheel i = some e)
    (hne : e.idx.toNat / 8 ≠ cls (p % 30)) : s.classAgrees i p = false := by
  rw [← Bool.not_eq_true, classAgrees_iff]
  exact fun h => hne (h e hi he)

/-- Checks 2 to 4 of R130. -/
theorem crossingChecks_hold_iff (i p : Nat) : (∀ x ∈ s.crossingChecks i p, x.1 = true) ↔ s.crossable i p := by
  simp only [State.crossingChecks, List.forall_mem_cons, Bool.and_eq_true, decide_eq_true_eq, sievingOperand_iff,
    classAgrees_iff, State.crossable, List.not_mem_nil, false_implies, implies_true, and_true, and_assoc]

theorem mem_sievingIndices {i c : Nat} : i ∈ sievingIndices c ↔ 4 ≤ i ∧ i ≤ c := by
  rw [sievingIndices, List.mem_range'_1]
  omega

theorem tablePrimeFits_iff (i : Nat) :
    s.tablePrimeFits i = true ↔ ∀ p, s.cfg.primes[i]? = some p →
      7 ≤ p ∧ p < 2 ^ 32 ∧ p % 30 ∈ W ∧
        ∀ e, i < s.wheelCount → Store.read s.wheel i = some e → e.idx.toNat / 8 = cls (p % 30) := by
  unfold State.tablePrimeFits
  cases s.cfg.primes[i]? with
  | none => simp
  | some p => simp only [Bool.and_eq_true, sievingOperand_iff, classAgrees_iff, Option.some.injEq, forall_eq', and_assoc]

/-- Check 7 of R100. -/
theorem tablePrimesFit_iff (c : Nat) :
    (sievingIndices c).all s.tablePrimeFits = true ↔ ∀ i p, 4 ≤ i → i ≤ c → s.cfg.primes[i]? = some p →
      7 ≤ p ∧ p < 2 ^ 32 ∧ p % 30 ∈ W ∧
        ∀ e, i < s.wheelCount → Store.read s.wheel i = some e → e.idx.toNat / 8 = cls (p % 30) := by
  simp only [List.all_eq_true, mem_sievingIndices, tablePrimeFits_iff]
  exact ⟨fun h i p h4 hi => h i ⟨h4, hi⟩ p, fun h i hi p => h i p hi.1 hi.2⟩

/-- Check 6 of R100. -/
theorem indexCheck_iff (c : Nat) :
    (decide (c < 4) || (decide (c < s.cfg.primesLen) && decide (c < s.wheelCapacity))) = true ↔
      (4 ≤ c → c < s.cfg.primesLen ∧ c < s.wheelCapacity) := by
  simp only [Bool.or_eq_true, Bool.and_eq_true, decide_eq_true_eq]
  omega

/-- Check 5 of R100. -/
theorem consecutiveCheck_iff (low : Nat) :
    ((!s.primed && low == s.start.toNat) || (s.primed && low == s.start.toNat + 30 * s.size.toNat)) = true ↔
      (s.primed = false ∧ low = s.start.toNat) ∨ (s.primed = true ∧ low = s.start.toNat + 30 * s.size.toNat) := by
  cases s.primed <;> simp

theorem consecutiveCheck_eq_false {low : Nat}
    (h : (s.primed = false ∧ low ≠ s.start.toNat) ∨ (s.primed = true ∧ low ≠ s.start.toNat + 30 * s.size.toNat)) :
    ((!s.primed && low == s.start.toNat) || (s.primed && low == s.start.toNat + 30 * s.size.toNat)) = false := by
  rcases h with ⟨hprimed, hne⟩ | ⟨hprimed, hne⟩ <;> simp [hprimed, hne]

/-- The checks of R100 hold exactly when their conditions do: where check 6 holds, check 7 looks inside the table. -/
theorem presieveChecks_hold_iff (c low high : Nat) :
    (∀ x ∈ presieveChecks c low high s, x.1 = true) ↔ s.presievable c low high := by
  simp only [presieveChecks, List.forall_mem_cons, List.not_mem_nil, false_implies, implies_true, and_true,
    consecutiveCheck_iff, indexCheck_iff]
  simp only [Bool.or_eq_true, beq_iff_eq, decide_eq_true_eq, tablePrimesFit_iff, State.presievable]
  constructor
  · rintro ⟨hmod, hlt, hmax, hcover, hlow, hindex, htable⟩
    refine ⟨hmod, hlt, hmax, hcover, hlow, hindex, fun i p h4 hi => ?_⟩
    rcases htable with hbeyond | hfits
    · exact absurd (hindex (h4.trans hi)).1 (by omega)
    · exact hfits i p h4 hi
  · rintro ⟨hmod, hlt, hmax, hcover, hlow, hindex, hfits⟩
    exact ⟨hmod, hlt, hmax, hcover, hlow, hindex, .inr hfits⟩

/-! ### The first failing check -/

theorem firstFailing_cons_of_true {holds : Bool} {c : Cause} {rest : List Check} (h : holds = true) :
    firstFailing ((holds, c) :: rest) = firstFailing rest := if_pos h

theorem firstFailing_cons_of_false {holds : Bool} {c : Cause} {rest : List Check} (h : holds = false) :
    firstFailing ((holds, c) :: rest) = some c := if_neg (Bool.eq_false_iff.mp h)

/-- Checks that hold are passed over. -/
theorem firstFailing_drop {l : List Check} (n : Nat) (h : ∀ x ∈ l.take n, x.1 = true) :
    firstFailing l = firstFailing (l.drop n) := by
  induction n generalizing l with
  | zero => rfl
  | succ n ih =>
    cases l with
    | nil => rfl
    | cons x l =>
      obtain ⟨hx, hl⟩ := List.forall_mem_cons.mp h
      exact (firstFailing_cons_of_true hx).trans (ih hl)

/-- A command whose rule needs `CREATED` faults with the cause of its first failing check. -/
theorem faults_of_firstFailing {checks : State → List Check} {effect : State → Host.Outcome State Fault Refusal} {c : Cause}
    (hf : s.fault = false) (hc : s.created = true) (hfirst : firstFailing (checks s) = some c) :
    runCommand true checks effect s = .next (s.afterFault c) :=
  runCommand_of_failing hf (fun _ => hc) hfirst

theorem newFaults_of_firstFailing {a b c : Word64} {cause : Cause} (hf : s.fault = false)
    (hfirst : firstFailing (newChecks a.toNat b.toNat c.toNat s) = some cause) :
    execNew a b c s = .next (s.afterFault cause) :=
  runCommand_of_failing hf (fun h => absurd h (by decide)) hfirst

/-- Checks 2 to 4 of R130, in order. -/
theorem firstFailing_crossingChecks_range {i p : Nat}
    (h : i < 4 ∨ s.wheelCount < i ∨ s.wheelCapacity ≤ i) : firstFailing (s.crossingChecks i p) = some .range := by
  refine firstFailing_cons_of_false ?_
  simp only [Bool.and_eq_false_iff, decide_eq_false_iff_not]
  omega

section
variable {i p : Nat} (h4 : 4 ≤ i) (hcount : i ≤ s.wheelCount) (hcap : i < s.wheelCapacity)
include h4 hcount hcap

theorem firstFailing_crossingChecks_operand (h : p < 7 ∨ 2 ^ 32 ≤ p ∨ p % 30 ∉ W) :
    firstFailing (s.crossingChecks i p) = some .operand := by
  rw [State.crossingChecks, firstFailing_cons_of_true (by simp [h4, hcount, hcap])]
  exact firstFailing_cons_of_false ((sievingOperand_eq_false_iff p).mpr h)

theorem firstFailing_crossingChecks_class (h7 : 7 ≤ p) (hmax : p < 2 ^ 32) (hW : p % 30 ∈ W) {e : WheelEntry}
    (hi : i < s.wheelCount) (he : Store.read s.wheel i = some e) (hne : e.idx.toNat / 8 ≠ cls (p % 30)) :
    firstFailing (s.crossingChecks i p) = some .operand := by
  rw [State.crossingChecks, firstFailing_cons_of_true (by simp [h4, hcount, hcap]),
    firstFailing_cons_of_true ((sievingOperand_iff p).mpr ⟨h7, hmax, hW⟩)]
  exact firstFailing_cons_of_false (classAgrees_eq_false_of hi he hne)

end

end

/-! ### The checks in order -/

/-- Settles O15: R176 step 3 comes before a command's own checks. -/
theorem commandsBeforeNewRaiseState : Obligations.CommandsBeforeNewRaiseState := by
  intro i s hf hc hnew
  cases i with
  | new a b c => exact absurd rfl (hnew a b c)
  | segsz => exact (exec_segsz s).trans (runCommand_of_not_created hf hc)
  | count a b => exact (exec_count a b s).trans (runCommand_of_not_created hf hc)
  | presieve c low high => exact (exec_presieve c low high s).trans (runCommand_of_not_created hf hc)
  | crossoff k p => exact (exec_crossoff k p s).trans (runCommand_of_not_created hf hc)
  | cntfinit => exact (exec_cntfinit s).trans (runCommand_of_not_created hf hc)
  | cntunset k => exact (exec_cntunset k s).trans (runCommand_of_not_created hf hc)
  | cntquery k => exact (exec_cntquery k s).trans (runCommand_of_not_created hf hc)
  | crossoffc k p => exact (exec_crossoffc k p s).trans (runCommand_of_not_created hf hc)

/-- Settles O19: each clause makes one check of R90 the first to fail. -/
theorem newFaultsInOrder : Obligations.NewFaultsInOrder := by
  intro a b c s hf
  simp only [exec_new]
  refine ⟨fun ha => ?_, fun ha hb => ?_, fun ha hb hsize => ?_, fun ha hb hmin hmax hcap => ?_,
    fun ha hb hmin hmax hcap hsum => ?_⟩ <;> refine newFaults_of_firstFailing hf ?_
  · simp [newChecks, firstFailing, ha]
  · simp [newChecks, firstFailing, ha, hb]
  · have hrange : ¬ (240 ≤ b.toNat ∧ b.toNat / 30 ≤ s.cfg.maxBytes) := by omega
    simp [newChecks, firstFailing, ha, hb, hrange]
  · simp [newChecks, firstFailing, ha, hb, hmin, hmax, Nat.not_le.mpr hcap]
  · simp [newChecks, firstFailing, ha, hb, hmin, hmax, hcap, -Nat.reducePow, Nat.not_le.mpr hsum]

/-- Settles O23: `SIEVE_VALID` first, then the range of an interval that is not empty. -/
theorem countFaultsInOrder : Obligations.CountFaultsInOrder := by
  intro a b s hf hc
  simp only [exec_count]
  refine ⟨fun hv => faults_of_firstFailing hf hc (firstFailing_cons_of_false hv), fun hv hab hb => ?_⟩
  refine faults_of_firstFailing hf hc ?_
  simp [countChecks, firstFailing, hv, Nat.not_lt.mpr hab, Nat.not_lt.mpr hb]

/-- Checks 1 to 4 of R100. -/
theorem firstFailing_presieveChecks_of_covered {s : State} (c : Nat) {low high : Nat} (hmod : low % 30 = 0) (hlt : low < high)
    (hmax : high ≤ 2 ^ 63) (hcover : high - low ≤ 30 * s.size.toNat) :
    firstFailing (presieveChecks c low high s) = firstFailing ((presieveChecks c low high s).drop 4) := by
  refine firstFailing_drop 4 ?_
  simp [presieveChecks, -Nat.reducePow, -tsub_le_iff_right, hmod, hlt, hmax, hcover]

/-- Settles O27: each clause makes one check of R100 the first to fail. -/
theorem presieveFaultsInOrder : Obligations.PresieveFaultsInOrder := by
  intro c low high s hf hc
  simp only [exec_presieve]
  refine ⟨fun hmod => ?_, fun hmod => ⟨fun hle => ?_, fun hlt hmax => ?_, fun hlt hmax => ⟨fun hcover => ?_,
    fun hcover => ⟨fun hlow => ?_, fun hlow h4 => ⟨fun hindex => ?_, fun hlen hcap hfits => ?_⟩⟩⟩⟩⟩ <;>
    refine faults_of_firstFailing hf hc ?_
  · exact firstFailing_cons_of_false (by simpa using hmod)
  · simp [presieveChecks, firstFailing, hmod, Nat.not_lt.mpr hle]
  · simp [presieveChecks, firstFailing, -Nat.reducePow, hmod, hlt, Nat.not_le.mpr hmax]
  · simp [presieveChecks, firstFailing, -Nat.reducePow, -tsub_le_iff_right, hmod, hlt, hmax, Nat.not_le.mpr hcover]
  · rw [firstFailing_presieveChecks_of_covered _ hmod hlt hmax hcover]
    exact firstFailing_cons_of_false (consecutiveCheck_eq_false hlow)
  · have hbroken := mt (indexCheck_iff (s := s) c.toNat).mp (by omega)
    rw [firstFailing_presieveChecks_of_covered _ hmod hlt hmax hcover]
    exact (firstFailing_cons_of_true ((consecutiveCheck_iff _).mpr hlow)).trans
      (firstFailing_cons_of_false (Bool.eq_false_iff.mpr hbroken))
  · obtain ⟨i, p, h4i, hi, hp, hbad⟩ := hfits
    have hbroken : ¬ (sievingIndices c.toNat).all s.tablePrimeFits = true := by
      rw [tablePrimesFit_iff]
      intro h
      obtain ⟨h7, hmax32, hW, hclass⟩ := h i p h4i hi hp
      rcases hbad with hlt7 | hge | hW' | ⟨hi', e, he, hne⟩
      · exact absurd h7 (Nat.not_le.mpr hlt7)
      · exact absurd hmax32 (Nat.not_lt.mpr hge)
      · exact hW' hW
      · exact hne (hclass e hi' he)
    rw [firstFailing_presieveChecks_of_covered _ hmod hlt hmax hcover]
    refine (firstFailing_cons_of_true ((consecutiveCheck_iff _).mpr hlow)).trans
      ((firstFailing_cons_of_true ((indexCheck_iff _).mpr fun _ => ⟨hlen, hcap⟩)).trans (firstFailing_cons_of_false ?_))
    rw [decide_eq_false (Nat.not_le.mpr hlen), Bool.false_or, Bool.eq_false_iff]
    exact hbroken

/-- Settles O40: `SIEVE_VALID`, then the crossing checks in their order. -/
theorem crossoffFaultsInOrder : Obligations.CrossoffFaultsInOrder := by
  intro i p s hf hc
  simp only [exec_crossoff]
  refine ⟨fun hv => faults_of_firstFailing hf hc (firstFailing_cons_of_false hv), fun hv => ?_⟩
  have crossing {cause : Cause} (h : firstFailing (s.crossingChecks i.toNat p.toNat) = some cause) :
      execCrossoff i p s = .next (s.afterFault cause) :=
    faults_of_firstFailing hf hc ((firstFailing_cons_of_true hv).trans h)
  exact ⟨fun hrange => crossing (firstFailing_crossingChecks_range hrange), fun h4 hcount hcap =>
    ⟨fun hp => crossing (firstFailing_crossingChecks_operand h4 hcount hcap hp), fun h7 hmax hW hi e he hne =>
      crossing (firstFailing_crossingChecks_class h4 hcount hcap h7 hmax hW hi he hne)⟩⟩

/-- Settles O44: the flags first, then the range of the position. -/
theorem counterCommandsFaultInOrder : Obligations.CounterCommandsFaultInOrder := by
  intro k s hf hc
  simp only [exec_cntfinit, exec_cntunset, exec_cntquery]
  refine ⟨fun hv => ?_, fun hv => ?_, fun hv hcnt hk => ?_, fun hcnt => ?_, fun hcnt hk => ?_⟩ <;>
    refine faults_of_firstFailing hf hc ?_
  · exact firstFailing_cons_of_false hv
  · exact firstFailing_cons_of_false (Bool.and_eq_false_iff.mpr hv)
  · simp [firstFailing, hv, hcnt, Nat.not_lt.mpr hk]
  · exact firstFailing_cons_of_false hcnt
  · simp [firstFailing, hcnt, Nat.not_lt.mpr hk]

/-- Settles O50: both flags, then the crossing checks in their order. -/
theorem crossoffcFaultsInOrder : Obligations.CrossoffcFaultsInOrder := by
  intro i p s hf hc
  simp only [exec_crossoffc]
  refine ⟨fun hv => faults_of_firstFailing hf hc (firstFailing_cons_of_false (Bool.and_eq_false_iff.mpr hv)),
    fun hv hcnt => ?_⟩
  have crossing {cause : Cause} (h : firstFailing (s.crossingChecks i.toNat p.toNat) = some cause) :
      execCrossoffc i p s = .next (s.afterFault cause) :=
    faults_of_firstFailing hf hc ((firstFailing_cons_of_true (Bool.and_eq_true_iff.mpr ⟨hv, hcnt⟩)).trans h)
  exact ⟨fun hrange => crossing (firstFailing_crossingChecks_range hrange), fun h4 hcount hcap =>
    ⟨fun hp => crossing (firstFailing_crossingChecks_operand h4 hcount hcap hp), fun h7 hmax hW hi e he hne =>
      crossing (firstFailing_crossingChecks_class h4 hcount hcap h7 hmax hW hi he hne)⟩⟩

end Sys2Proof.Commands
end

section
/-! What a command can do (60_exceptions.md R172 to R176, and the effect of each command's rule): the sticky answer, a fault
with a cause of its row, or its effect and an answer. The proofs about flags, causes, frames and the invariant are case
splits over this. -/

namespace Sys2Proof.Effects

open Sys2Proof Sys2Proof.Machine Sys2Proof.Commands Sys2Proof.Responses

/-! ### Effects -/

/-- The conditions of R90's checks. -/
def NewAccepts (cfg : Config) (start segmentSize wheelCapacity : Nat) : Prop :=
  start % 30 = 0 ∧ segmentSize % 240 = 0 ∧ 240 ≤ segmentSize ∧ segmentSize / 30 ≤ cfg.maxBytes ∧
    wheelCapacity ≤ cfg.maxWheel ∧ start + segmentSize ≤ 2 ^ 63

/-- `Effect s i u v`: where the checks of `i` hold in `s`, it may leave `u` and answer `v`. -/
inductive Effect (s : State) : Instr → State → Nat → Prop where
  | new {a b c : Word64} : NewAccepts s.cfg a.toNat b.toNat c.toNat →
      Effect s (.new a b c) (s.newSieve a.toNat b.toNat c.toNat) 0
  | segsz : s.created = true → Effect s .segsz s (30 * s.size.toNat)
  | count {a b : Word64} (v : Nat) : s.created = true → s.sieveValid = true → Effect s (.count a b) s v
  | presieve {c low high : Word64} {u : State} : s.created = true → s.presievable c.toNat low.toNat high.toNat →
      State.crossAll (sievingIndices c.toNat) (s.openSegment low.toNat high.toNat) = some u →
      Effect s (.presieve c low high) u 0
  | crossoff {i p : Word64} {u : State} {n : Nat} : s.created = true → s.sieveValid = true →
      s.crossable i.toNat p.toNat → s.crossBody i.toNat p.toNat false = some (u, n) →
      Effect s (.crossoff i p) u.invalidateCounters n
  | cntfinit : s.created = true → s.sieveValid = true → Effect s .cntfinit s.initCounters 0
  | unset {k : Word64} : s.created = true → s.sieveValid = true → s.cntValid = true → k.toNat < s.cntn.toNat →
      live s.bytes k.toNat = true → Effect s (.cntunset k) (s.unset k.toNat) 1
  | leaveDead {k : Word64} : s.created = true → s.sieveValid = true → s.cntValid = true → k.toNat < s.cntn.toNat →
      live s.bytes k.toNat = false → Effect s (.cntunset k) s 0
  | cntquery {k : Word64} : s.created = true → s.cntValid = true → k.toNat < s.cntn.toNat →
      Effect s (.cntquery k) s (query s.cnt k.toNat)
  | crossoffc {i p : Word64} {u : State} {n : Nat} : s.created = true → s.sieveValid = true → s.cntValid = true →
      s.crossable i.toNat p.toNat → s.crossBody i.toNat p.toNat true = some (u, n) →
      Effect s (.crossoffc i p) u n

/-- All that a next state of `exec i s` can be. -/
inductive Ran (s : State) (i : Instr) : State → Prop where
  | sticky : s.fault = true → Ran s i s.stickyAnswer
  | faulted (c : Cause) : s.fault = false → c ∈ causesOf i → Ran s i (s.raiseFault c)
  | completed {u : State} {v : Nat} : s.fault = false → Effect s i u v → Ran s i (u.respond v)

section
variable {s t u : State} {i : Instr}

/-! ### Every command runs so -/

theorem newChecks_hold_iff (a b c : Nat) :
    (∀ x ∈ newChecks a b c s, x.1 = true) ↔ NewAccepts s.cfg a b c := by
  simp only [newChecks, NewAccepts, List.forall_mem_cons, List.not_mem_nil, false_implies, implies_true, and_true,
    beq_iff_eq, Bool.and_eq_true, decide_eq_true_eq, and_assoc]

theorem countChecks_hold_iff (a b : Nat) :
    (∀ x ∈ countChecks a b s, x.1 = true) ↔ s.sieveValid = true ∧ (b < a ∨ b < 30 * s.size.toNat) := by
  simp [countChecks]

/-- A failing check's cause is one of the list's. -/
theorem cause_mem_of_firstFailing {l : List Check} {c : Cause} (h : firstFailing l = some c) : c ∈ l.map Prod.snd := by
  obtain ⟨before, after, rfl, -⟩ := (firstFailing_eq_some l c).mp h
  simp

/-- R176 with the causes of R173's row. -/
theorem ran_of_runCommand {needsCreated : Bool} {checks : State → List Check}
    {effect : State → Host.Outcome State Fault Refusal} (hstate : needsCreated = true → .state ∈ causesOf i)
    (hcauses : (checks s).map Prod.snd ⊆ causesOf i)
    (heffect : (needsCreated = true → s.created = true) → (∀ x ∈ checks s, x.1 = true) → effect s = .next t →
      ∃ u v, Effect s i u v ∧ t = u.respond v)
    (h : runCommand needsCreated checks effect s = .next t) : Ran s i t := by
  rcases runCommand_cases (needsCreated := needsCreated) (checks := checks) (effect := effect) (s := s) with
    ⟨hf, hrun⟩ | ⟨hf, hneeds, -, hrun⟩ | ⟨c, hf, -, hfirst, hrun⟩ | ⟨hf, hc, hnone, hrun⟩
  · cases hrun.symm.trans h
    exact .sticky hf
  · cases hrun.symm.trans h
    exact .faulted .state hf (hstate hneeds)
  · cases hrun.symm.trans h
    exact .faulted c hf (hcauses (cause_mem_of_firstFailing hfirst))
  · obtain ⟨u, v, heff, rfl⟩ := heffect hc ((firstFailing_eq_none _).mp hnone) (hrun.symm.trans h)
    exact .completed hf heff

theorem ran_of_execNew {a b c : Word64} (h : execNew a b c s = .next t) : Ran s (.new a b c) t := by
  refine ran_of_runCommand (fun hneeds => absurd hneeds (by decide)) (by simp [newChecks, causesOf])
    (fun _ hchecks heffect => ?_) h
  cases heffect
  exact ⟨_, _, .new ((newChecks_hold_iff _ _ _).mp hchecks), rfl⟩

theorem ran_of_execSegsz (h : execSegsz s = .next t) : Ran s .segsz t := by
  refine ran_of_runCommand (by decide) (by simp) (fun hc _ heffect => ?_) h
  cases heffect
  exact ⟨_, _, .segsz (hc rfl), rfl⟩

theorem ran_of_execCount {a b : Word64} (h : execCount a b s = .next t) : Ran s (.count a b) t := by
  refine ran_of_runCommand (fun _ => by simp [causesOf]) (by simp [countChecks, causesOf])
    (fun hc hchecks heffect => ?_) h
  obtain ⟨hv, -⟩ := (countChecks_hold_iff _ _).mp hchecks
  split at heffect
  · cases heffect
    exact ⟨_, _, .count _ (hc rfl) hv, rfl⟩
  · obtain ⟨-, rfl⟩ := (whenReadable_eq_next _ _ _).mp heffect
    exact ⟨_, _, .count _ (hc rfl) hv, rfl⟩

theorem ran_of_execPresieve {c low high : Word64} (h : execPresieve c low high s = .next t) :
    Ran s (.presieve c low high) t := by
  refine ran_of_runCommand (fun _ => by simp [causesOf]) (by simp [presieveChecks, causesOf])
    (fun hc hchecks heffect => ?_) h
  split at heffect
  · next u hcross =>
    cases heffect
    exact ⟨u, 0, .presieve (hc rfl) ((presieveChecks_hold_iff _ _ _).mp hchecks) hcross, rfl⟩
  · cases heffect

theorem ran_of_execCrossoff {i p : Word64} (h : execCrossoff i p s = .next t) : Ran s (.crossoff i p) t := by
  refine ran_of_runCommand (fun _ => by simp [causesOf]) (by simp [State.crossingChecks, causesOf])
    (fun hc hchecks heffect => ?_) h
  obtain ⟨hv, hcrossing⟩ := List.forall_mem_cons.mp hchecks
  split at heffect
  · next r hbody =>
    obtain ⟨-, rfl⟩ := (whenReadable_eq_next _ _ _).mp heffect
    exact ⟨_, r.2, .crossoff (hc rfl) hv ((crossingChecks_hold_iff _ _).mp hcrossing) hbody, rfl⟩
  · cases heffect

theorem ran_of_execCntfinit (h : execCntfinit s = .next t) : Ran s .cntfinit t := by
  refine ran_of_runCommand (fun _ => by simp [causesOf]) (by simp [causesOf]) (fun hc hchecks heffect => ?_) h
  obtain ⟨-, rfl⟩ := (whenReadable_eq_next _ _ _).mp heffect
  exact ⟨_, _, .cntfinit (hc rfl) (by simpa using hchecks), rfl⟩

theorem ran_of_execCntunset {k : Word64} (h : execCntunset k s = .next t) : Ran s (.cntunset k) t := by
  refine ran_of_runCommand (fun _ => by simp [causesOf]) (by simp [causesOf]) (fun hc hchecks heffect => ?_) h
  obtain ⟨⟨hv, hcnt⟩, hk⟩ : (s.sieveValid = true ∧ s.cntValid = true) ∧ k.toNat < s.cntn.toNat := by simpa using hchecks
  obtain ⟨-, rfl⟩ := (whenReadable_eq_next _ _ _).mp heffect
  cases hlive : live s.bytes k.toNat with
  | true => exact ⟨_, _, .unset (hc rfl) hv hcnt hk hlive, rfl⟩
  | false => exact ⟨_, _, .leaveDead (hc rfl) hv hcnt hk hlive, rfl⟩

theorem ran_of_execCntquery {k : Word64} (h : execCntquery k s = .next t) : Ran s (.cntquery k) t := by
  refine ran_of_runCommand (fun _ => by simp [causesOf]) (by simp [causesOf]) (fun hc hchecks heffect => ?_) h
  obtain ⟨hcnt, hk⟩ : s.cntValid = true ∧ k.toNat < s.cntn.toNat := by simpa using hchecks
  obtain ⟨-, rfl⟩ := (whenReadable_eq_next _ _ _).mp heffect
  exact ⟨_, _, .cntquery (hc rfl) hcnt hk, rfl⟩

theorem ran_of_execCrossoffc {i p : Word64} (h : execCrossoffc i p s = .next t) : Ran s (.crossoffc i p) t := by
  refine ran_of_runCommand (fun _ => by simp [causesOf]) (by simp [State.crossingChecks, causesOf])
    (fun hc hchecks heffect => ?_) h
  obtain ⟨hv, hcrossing⟩ := List.forall_mem_cons.mp hchecks
  obtain ⟨hsieve, hcnt⟩ := Bool.and_eq_true_iff.mp hv
  split at heffect
  · next r hbody =>
    obtain ⟨-, rfl⟩ := (whenReadable_eq_next _ _ _).mp heffect
    exact ⟨r.1, r.2, .crossoffc (hc rfl) hsieve hcnt ((crossingChecks_hold_iff _ _).mp hcrossing) hbody, rfl⟩
  · cases heffect

theorem ran_of_exec (h : exec i s = .next t) : Ran s i t := by
  cases i with
  | new a b c => exact ran_of_execNew h
  | segsz => exact ran_of_execSegsz h
  | count a b => exact ran_of_execCount h
  | presieve c low high => exact ran_of_execPresieve h
  | crossoff k p => exact ran_of_execCrossoff h
  | cntfinit => exact ran_of_execCntfinit h
  | cntunset k => exact ran_of_execCntunset h
  | cntquery k => exact ran_of_execCntquery h
  | crossoffc k p => exact ran_of_execCrossoffc h

/-! ### What no effect changes, and which flags one changes -/

theorem Effect.sameBookkeeping {v : Nat} (h : Effect s i u v) : SameBookkeeping s u := by
  cases h with
  | new _ => exact ⟨rfl, rfl, rfl, rfl, rfl⟩
  | segsz _ => exact .refl s
  | count _ _ _ => exact .refl s
  | presieve _ _ hcross =>
    have book := sameBookkeeping_of_crossing (crossAll_frame hcross)
    exact ⟨book.fault, book.cause, book.responses, book.cidx, book.inbox⟩
  | crossoff _ _ _ hbody =>
    have book := sameBookkeeping_of_crossing (crossBody_frame hbody)
    exact ⟨book.fault, book.cause, book.responses, book.cidx, book.inbox⟩
  | cntfinit _ _ => exact ⟨rfl, rfl, rfl, rfl, rfl⟩
  | unset _ _ _ _ _ => exact ⟨rfl, rfl, rfl, rfl, rfl⟩
  | leaveDead _ _ _ _ _ => exact .refl s
  | cntquery _ _ _ => exact .refl s
  | crossoffc _ _ _ _ hbody => exact sameBookkeeping_of_crossing (crossBody_frame hbody)

/-- R15, R57. -/
theorem Effect.cfg_eq {v : Nat} (h : Effect s i u v) : u.cfg = s.cfg := by
  cases h with
  | new _ => rfl
  | segsz _ => rfl
  | count _ _ _ => rfl
  | presieve _ _ hcross => rw [crossAll_frame hcross, State.openSegment_cfg]
  | crossoff _ _ _ hbody => rw [State.invalidateCounters_cfg, crossBody_frame hbody]
  | cntfinit _ _ => rfl
  | unset _ _ _ _ _ => rfl
  | leaveDead _ _ _ _ _ => rfl
  | cntquery _ _ _ => rfl
  | crossoffc _ _ _ _ hbody => rw [crossBody_frame hbody]

/-- The flag table of R23: what a command that changes a flag sets it to. -/
structure FlagsAsListed (s : State) (i : Instr) (t : State) : Prop where
  created : t.created ≠ s.created → t.created = true ∧ i.mnemonic = "NEW"
  sieveValid : t.sieveValid ≠ s.sieveValid →
    (t.sieveValid = true ∧ i.mnemonic = "PRESIEVE") ∨ (t.sieveValid = false ∧ i.mnemonic = "NEW")
  primed : t.primed ≠ s.primed → (t.primed = true ∧ i.mnemonic = "PRESIEVE") ∨ (t.primed = false ∧ i.mnemonic = "NEW")
  cntValid : t.cntValid ≠ s.cntValid →
    (t.cntValid = true ∧ i.mnemonic = "CNTFINIT") ∨
      (t.cntValid = false ∧ i.mnemonic ∈ ["NEW", "PRESIEVE", "CROSSOFF"])

theorem flagsAsListed_of_eq (hc : t.created = s.created) (hv : t.sieveValid = s.sieveValid) (hp : t.primed = s.primed)
    (hcnt : t.cntValid = s.cntValid) : FlagsAsListed s i t :=
  ⟨absurd hc, absurd hv, absurd hp, absurd hcnt⟩

theorem Effect.flagsAsListed {v : Nat} (h : Effect s i u v) : FlagsAsListed s i u := by
  cases h with
  | new _ => exact ⟨fun _ => ⟨rfl, rfl⟩, fun _ => .inr ⟨rfl, rfl⟩, fun _ => .inr ⟨rfl, rfl⟩,
      fun _ => .inr ⟨rfl, by simp [Instr.mnemonic]⟩⟩
  | segsz _ => exact flagsAsListed_of_eq rfl rfl rfl rfl
  | count _ _ _ => exact flagsAsListed_of_eq rfl rfl rfl rfl
  | presieve _ _ hcross =>
    rw [crossAll_frame hcross]
    exact ⟨absurd rfl, fun _ => .inl ⟨rfl, rfl⟩, fun _ => .inl ⟨rfl, rfl⟩,
      fun _ => .inr ⟨rfl, by simp [Instr.mnemonic]⟩⟩
  | crossoff _ _ _ hbody =>
    rw [crossBody_frame hbody]
    exact ⟨absurd rfl, absurd rfl, absurd rfl, fun _ => .inr ⟨rfl, by simp [Instr.mnemonic]⟩⟩
  | cntfinit _ _ => exact ⟨absurd rfl, absurd rfl, absurd rfl, fun _ => .inl ⟨rfl, rfl⟩⟩
  | unset _ _ _ _ _ => exact flagsAsListed_of_eq rfl rfl rfl rfl
  | leaveDead _ _ _ _ _ => exact flagsAsListed_of_eq rfl rfl rfl rfl
  | cntquery _ _ _ => exact flagsAsListed_of_eq rfl rfl rfl rfl
  | crossoffc _ _ _ _ hbody =>
    rw [crossBody_frame hbody]
    exact flagsAsListed_of_eq rfl rfl rfl rfl

/-- R56: COUNT, SEGSZ and CNTQUERY have no effect. -/
theorem Effect.eq_of_reading {v : Nat} (h : Effect s i u v)
    (hread : (∃ a b, i = .count a b) ∨ i = .segsz ∨ ∃ k, i = .cntquery k) : u = s := by
  rcases hread with ⟨a, b, rfl⟩ | rfl | ⟨k, rfl⟩ <;> cases h <;> rfl

end

/-! ### The statements -/

/-- Settles O14: only the second of the three ways raises FAULT, and it does so with a cause of the command's row. -/
theorem commandsRaiseOnlyTheirCauses : Obligations.CommandsRaiseOnlyTheirCauses := by
  refine ⟨⟨rfl, rfl, rfl, rfl, rfl⟩, fun i s t hf h ht => ?_⟩
  cases ran_of_exec h with
  | sticky hset => exact absurd (hf.symm.trans hset) (by decide)
  | faulted c _ hc => exact ⟨c, hc, rfl⟩
  | completed _ heff =>
    have hclear := heff.sameBookkeeping.fault.trans hf
    exact absurd (hclear.symm.trans ht) (by decide)

/-- Settles O56: effects write the flags the table lists; FAULT and CAUSE are written by fault entry alone. -/
theorem flagsChangeOnlyAsListed : Obligations.FlagsChangeOnlyAsListed := by
  intro i s t h
  cases ran_of_exec h with
  | sticky _ => simp
  | faulted c hf _ => simp [hf]
  | completed _ heff =>
    have flags := heff.flagsAsListed
    have book := heff.sameBookkeeping
    exact ⟨flags.created, flags.sieveValid, flags.primed, flags.cntValid, absurd book.fault, absurd book.cause⟩

/-- Settles O58: the three ways to answer, where the effect is none. -/
theorem readingCommandsChangeNothing : Obligations.ReadingCommandsChangeNothing := by
  intro i s t h hread
  cases ran_of_exec h with
  | sticky hf => exact .inr (.inr ⟨hf, rfl⟩)
  | faulted c hf hc => exact .inr (.inl ⟨hf, c, hc, rfl⟩)
  | completed hf heff =>
    obtain rfl := heff.eq_of_reading hread
    exact .inl ⟨hf, _, rfl⟩

theorem cfg_of_exec {i : Instr} {s t : State} (h : exec i s = .next t) : t.cfg = s.cfg := by
  cases ran_of_exec h with
  | sticky _ => rfl
  | faulted _ _ _ => rfl
  | completed _ heff => exact heff.cfg_eq

/-- Settles O59: neither reset nor any command writes the configuration. -/
theorem noStepChangesTheConfiguration : Obligations.NoStepChangesTheConfiguration := by
  intro s t h
  rcases step_of_fetch (Faults.cfg_wf_of_step_next h) with ⟨-, hs⟩ | ⟨rest, -, hs⟩ | ⟨w, rest, i, -, -, hs⟩ |
    ⟨w, rest, e, -, -, hs⟩
  · cases hs.symm.trans h
    rfl
  · cases hs.symm.trans h
    rfl
  · exact cfg_of_exec (s := { s with inbox := rest }) (hs.symm.trans h)
  · cases hs.symm.trans h
    rcases answerIllegal_cases { s with inbox := rest } with ⟨-, heq⟩ | ⟨-, heq⟩ <;> rw [heq] <;> rfl

/-! ### The step, by what the host sent -/

/-- Settles O8. -/
theorem stepRunsDecodedCommand : Obligations.StepRunsDecodedCommand :=
  fun _ _ _ _ hcfg hin hdec => step_of_legal hcfg hin hdec

/-- Settles O16: the reset input is `applyReset`. -/
theorem resetInputClearsFlags : Obligations.ResetInputClearsFlags :=
  fun _ _ hcfg hin => ⟨_, Faults.step_reset hcfg hin, rfl, rfl, rfl, rfl, rfl, rfl, rfl, rfl, rfl⟩

/-- Settles O17: an empty inbox is the first case of a step. -/
theorem idleBlockHoldsItsState : Obligations.IdleBlockHoldsItsState := by
  intro s hcfg hin
  rcases step_of_fetch hcfg with ⟨-, hs⟩ | ⟨rest, hin', -⟩ | ⟨w, rest, i, hin', -⟩ | ⟨w, rest, e, hin', -⟩
  · exact hs
  all_goals
    rw [hin] at hin'
    cases hin'

theorem config_wf_iff (c : Config) :
    c.wf = true ↔ c.maxBytes % 8 = 0 ∧ 8 ≤ c.maxBytes ∧ c.maxBytes < 2 ^ 32 ∧ 4 ≤ c.maxWheel ∧ c.maxWheel ≤ 2 ^ 32 ∧
      c.maxCnt = 8 * c.maxBytes ∧ 5 ≤ c.primesLen := by
  simp only [Config.wf, Bool.and_eq_true, beq_iff_eq, decide_eq_true_eq, and_assoc]

/-- Settles O18: each disjunct breaks a constraint of R6. -/
theorem badConfigurationIsRefused : Obligations.BadConfigurationIsRefused := by
  intro s hbad
  have hwf : ¬ s.cfg.wf = true := by
    rw [config_wf_iff]
    omega
  exact if_neg hwf

/-! ### NEW -/

theorem execNew_of_accepts {a b c : Word64} {s : State} (hf : s.fault = false)
    (h : NewAccepts s.cfg a.toNat b.toNat c.toNat) :
    execNew a b c s = .next ((s.newSieve a.toNat b.toNat c.toNat).respond 0) :=
  runCommand_of_holding hf (fun hneeds => absurd hneeds (by decide))
    ((firstFailing_eq_none _).mpr ((newChecks_hold_iff _ _ _).mpr h))

theorem newSieve_size_toNat (s : State) (start wheelCapacity : Nat) {segmentSize : Nat}
    (hmax : segmentSize / 30 ≤ s.cfg.maxBytes) (hcfg : s.cfg.wf = true) :
    (s.newSieve start segmentSize wheelCapacity).size.toNat = segmentSize / 30 := by
  have := SegmentSize.maxBytes_lt hcfg
  rw [State.newSieve_size, BitVec.toNat_ofNat, Nat.mod_eq_of_lt (by omega)]

/-- Settles O20: R90's effect; its numbers fit their registers because the configuration bounds them. -/
theorem newCreatesTheSieve : Obligations.NewCreatesTheSieve := by
  intro a b c s hcfg hf ha hb hmin hmax hcap hsum
  obtain ⟨-, -, -, -, hwheel, -⟩ := (config_wf_iff _).mp hcfg
  have hstart : BitVec.ofNat 64 a.toNat = a := by simp
  refine ⟨(s.newSieve a.toNat b.toNat c.toNat).respond 0, execNew_of_accepts hf ⟨ha, hb, hmin, hmax, hcap, hsum⟩,
    newSieve_size_toNat s a.toNat c.toNat hmax hcfg,
    newSieve_wheelCapacity s a.toNat b.toNat (hcap.trans hwheel), newSieve_wheelCount s a.toNat b.toNat c.toNat,
    fun _ => rfl, fun _ => rfl, fun _ => rfl, ?_⟩
  simp [State.respond, State.answer, State.newSieve, State.flagsOfNew, hstart]

/-- Settles O21: NEW's checks read the operands and the configuration alone, and what it leaves, the operands alone. -/
theorem newIsAsIfAfterReset : Obligations.NewIsAsIfAfterReset := by
  intro a b c s t hf h ht
  cases ran_of_exec h with
  | sticky hset => exact absurd (hf.symm.trans hset) (by decide)
  | faulted _ _ _ => exact absurd ht (by simp)
  | completed _ heff =>
    cases heff with
    | new haccepts =>
      refine ⟨_, execNew_of_accepts (s := State.afterReset s.cfg) rfl haccepts, ?_⟩
      simp [State.respond, State.answer, State.newSieve, State.flagsOfNew, State.afterReset, hf]

end Sys2Proof.Effects
end

section
/-! Proofs for 10_state.md R32 and 42_fenwick_counters.md R154, R157: the index arithmetic of the counter tree, by halving the
index. The counters responsible for a position are met one after another by `update`; the ranges `query` adds up follow one
another down to 0. -/

namespace Sys2Proof.CounterTree

open Sys2Proof Sys2Proof.Machine

/-! ### `lo` and `upCounter` by halving -/

theorem lo_two_mul (a : Nat) : lo (2 * a) = 2 * a := by
  simpa [lo, Nat.bit_val] using Nat.land_bit false a true a

theorem lo_two_mul_add_one (a : Nat) : lo (2 * a + 1) = 2 * lo a := by
  simpa [lo, Nat.bit_val, Nat.mul_add] using Nat.land_bit true a false (a + 1)

theorem upCounter_two_mul (a : Nat) : upCounter (2 * a) = 2 * a + 1 := by
  simpa [upCounter, Nat.bit_val] using Nat.lor_bit false a true a

theorem upCounter_two_mul_add_one (a : Nat) : upCounter (2 * a + 1) = 2 * upCounter a + 1 := by
  simpa [upCounter, Nat.bit_val, Nat.mul_add] using Nat.lor_bit true a false (a + 1)

theorem lo_le (j : Nat) : lo j ≤ j := Nat.and_le_left

theorem even_or_odd (n : Nat) : n = 2 * (n / 2) ∨ n = 2 * (n / 2) + 1 := by omega

theorem lt_upCounter (j : Nat) : j < upCounter j := Nat.right_le_or

/-- The next counter is responsible for at least the same positions. -/
theorem lo_upCounter_le (j : Nat) : lo (upCounter j) ≤ lo j := by
  induction j using Nat.strongRecOn with
  | ind j ih =>
    rcases even_or_odd j with hj | hj <;> rw [hj]
    · rw [upCounter_two_mul, lo_two_mul, lo_two_mul_add_one]
      have := lo_le (j / 2)
      omega
    · rw [upCounter_two_mul_add_one, lo_two_mul_add_one, lo_two_mul_add_one]
      have := ih (j / 2) (by omega)
      omega

/-- A counter between a counter and its next one has a range above the first. -/
theorem upCounter_le_of_lo_le {i j : Nat} (hlt : j < i) (hlo : lo i ≤ j) : upCounter j ≤ i := by
  induction j using Nat.strongRecOn generalizing i with
  | ind j ih =>
    rcases even_or_odd j with hj | hj
    · rw [hj, upCounter_two_mul]
      omega
    · rcases even_or_odd i with hi | hi
      · rw [hi, lo_two_mul] at hlo
        omega
      · rw [hi, lo_two_mul_add_one] at hlo
        have := ih (j / 2) (by omega) (i := i / 2) (by omega) (by omega)
        rw [hj, upCounter_two_mul_add_one]
        omega

/-! ### Update -/

/-- Counter `j` is responsible for position `k` (R32). -/
abbrev Responsible (k j : Nat) : Prop := lo j ≤ k ∧ k ≤ j

theorem responsible_self (k : Nat) : Responsible k k := ⟨lo_le k, le_rfl⟩

theorem Responsible.up {k j : Nat} (h : Responsible k j) : Responsible k (upCounter j) :=
  ⟨(lo_upCounter_le j).trans h.1, h.2.trans (lt_upCounter j).le⟩

/-- From a responsible counter on, the responsible counters are that one and those from the next one on. -/
theorem responsible_from_iff {k j i : Nat} (h : Responsible k j) :
    (j ≤ i ∧ lo i ≤ k) ↔ (i = j ∨ (upCounter j ≤ i ∧ lo i ≤ k)) := by
  constructor
  · rintro ⟨hji, hlo⟩
    rcases Nat.eq_or_lt_of_le hji with rfl | hlt
    · exact .inl rfl
    · exact .inr ⟨upCounter_le_of_lo_le hlt (hlo.trans h.2), hlo⟩
  · rintro (rfl | ⟨hup, hlo⟩)
    · exact ⟨le_rfl, h.1⟩
    · exact ⟨(lt_upCounter j).le.trans hup, hlo⟩

/-- `update`'s loop from a responsible counter decrements the responsible counters from there on, and no other. -/
theorem read_updateLoop (cntn : Nat) {k j fuel : Nat} (hj : Responsible k j) (hfuel : cntn ≤ j + fuel)
    (cnt : Store (BitVec 64)) (i : Nat) :
    Store.read (updateLoop cntn fuel j cnt) i =
      if i < cntn ∧ j ≤ i ∧ lo i ≤ k then (Store.read cnt i).map (fun v => v - 1) else Store.read cnt i := by
  induction fuel generalizing j cnt with
  | zero =>
    rw [if_neg (by omega)]
    rfl
  | succ fuel ih =>
    have hlt := lt_upCounter j
    have rest (cnt' : Store (BitVec 64)) := ih hj.up (by omega) cnt'
    rw [updateLoop]
    simp only [responsible_from_iff hj]
    by_cases hjn : j < cntn
    · rw [if_pos hjn]
      by_cases hij : i = j
      · subst hij
        cases hread : Store.read cnt i <;> simp [rest, hread, hjn, Nat.not_le.mpr hlt]
      · cases hread : Store.read cnt j <;> simp [rest, hij, Store.read_write_other _ _ hij]
    · rw [if_neg hjn, if_neg (by omega)]

/-- R154: `update(k)` decrements exactly the counters in use that are responsible for `k`. -/
theorem read_update (cntn k : Nat) (cnt : Store (BitVec 64)) (j : Nat) :
    Store.read (update cntn k cnt) j =
      if j < cntn ∧ Responsible k j then (Store.read cnt j).map (fun v => v - 1) else Store.read cnt j := by
  rw [update, read_updateLoop cntn (responsible_self k) (by omega) cnt j]
  exact if_congr (by rw [and_comm (a := k ≤ j)]) rfl rfl

/-- The responsible counters below `n`, by halving: `k` itself if it is even, and the odd ones. -/
theorem responsible_subset (n k : Nat) :
    (Finset.range n).filter (Responsible k) ⊆
      insert k (((Finset.range (n / 2)).filter (Responsible (k / 2))).image fun b => 2 * b + 1) := by
  intro j hj
  rw [Finset.mem_filter, Finset.mem_range] at hj
  obtain ⟨hjn, hlo, hkj⟩ := hj
  rw [Finset.mem_insert, Finset.mem_image]
  rcases even_or_odd j with heven | hodd
  · rw [heven, lo_two_mul] at hlo
    exact .inl (by omega)
  · rw [hodd, lo_two_mul_add_one] at hlo
    refine .inr ⟨j / 2, ?_, hodd.symm⟩
    rw [Finset.mem_filter, Finset.mem_range]
    exact ⟨by omega, by omega, by omega⟩

/-- R154: at most `1 + log2 n` counters below `n` are responsible for a position. -/
theorem card_responsible_le {n : Nat} (hn : 0 < n) (k : Nat) :
    ((Finset.range n).filter (Responsible k)).card ≤ 1 + Nat.log2 n := by
  induction n using Nat.strongRecOn generalizing k with
  | ind n ih =>
    have half : ((Finset.range n).filter (Responsible k)).card ≤
        ((Finset.range (n / 2)).filter (Responsible (k / 2))).card + 1 :=
      (Finset.card_le_card (responsible_subset n k)).trans
        ((Finset.card_insert_le _ _).trans (Nat.add_le_add_right Finset.card_image_le 1))
    rw [Nat.log2_def]
    by_cases h2 : 2 ≤ n
    · rw [if_pos h2]
      have := ih (n / 2) (by omega) (by omega) (k / 2)
      omega
    · rw [if_neg h2]
      have hzero : n / 2 = 0 := by omega
      simpa [hzero] using half

/-- Settles O46: `update` goes from each responsible counter to the next; each step up doubles the counter's range. -/
theorem updateDecrementsTheResponsibleCounters : Obligations.UpdateDecrementsTheResponsibleCounters :=
  ⟨fun cntn k j cnt => read_update cntn k cnt j, fun _ k hk => card_responsible_le (by omega) k⟩

/-! ### Live positions in a set, and bits that died -/

/-- The number of positions of a set that are live. -/
def liveIn (m : Memory) (S : Finset Nat) : Nat := (S.filter fun pos => live m pos = true).card

theorem liveIn_union (m : Memory) {S T : Finset Nat} (h : Disjoint S T) :
    liveIn m (S ∪ T) = liveIn m S + liveIn m T := by
  rw [liveIn, Finset.filter_union, Finset.card_union_of_disjoint (Finset.disjoint_filter_filter h)]
  rfl

theorem liveIn_le (m : Memory) (S : Finset Nat) : liveIn m S ≤ S.card := Finset.card_filter_le _ _

/-- Killing a live bit takes one off the count of every set that has it. -/
theorem liveIn_clear {m : Memory} {pos : Nat} (hlive : live m pos = true) (S : Finset Nat) :
    liveIn (clear m pos) S = liveIn m S - if pos ∈ S then 1 else 0 := by
  have herase : (S.filter fun q => live (clear m pos) q = true) = (S.filter fun q => live m q = true).erase pos := by
    ext q
    simp only [Finset.mem_filter, Finset.mem_erase, live_clear, Bool.and_eq_true, decide_eq_true_eq]
    tauto
  rw [liveIn, herase, Finset.card_erase_eq_ite, liveIn]
  by_cases hpos : pos ∈ S <;> simp [hpos, hlive]

theorem liveCount_eq_liveIn (m : Memory) (first n : Nat) :
    liveCount m first n = liveIn m (Finset.Ico first (first + n)) := by
  have positions : (Finset.Ico first (first + n)).val = ↑(List.range' first n) := by
    change (↑(List.range' first (first + n - first)) : Multiset Nat) = _
    rw [Nat.add_sub_cancel_left]
  rw [liveCount, liveIn, Finset.card_def, Finset.filter_val, positions, Multiset.filter_coe, Multiset.coe_card,
    List.countP_eq_length_filter]
  simp

/-- A count of live positions up to `j` is that below `lo(j)` and that of the range of counter `j`. -/
theorem liveIn_range_eq (m : Memory) (j : Nat) :
    liveIn m (Finset.range (j + 1)) = liveIn m (Finset.range (lo j)) + liveIn m (Finset.Icc (lo j) j) := by
  have hlo := lo_le j
  have hsplit : Finset.range (j + 1) = Finset.range (lo j) ∪ Finset.Icc (lo j) j := by
    ext pos
    simp only [Finset.mem_union, Finset.mem_range, Finset.mem_Icc]
    omega
  have hdisjoint : Disjoint (Finset.range (lo j)) (Finset.Icc (lo j) j) := by
    rw [Finset.disjoint_left]
    simp only [Finset.mem_range, Finset.mem_Icc]
    omega
  rw [hsplit, liveIn_union m hdisjoint]

/-- Of the live positions below `n`, those that died are no longer counted. -/
theorem liveIn_add_died {m m' : Memory} (hdie : ∀ pos, live m' pos = true → live m pos = true) (n : Nat) :
    liveIn m' (Finset.range n) + died m m' n = liveIn m (Finset.range n) := by
  have hstill : ((Finset.range n).filter fun pos => live m' pos = true) =
      ((Finset.range n).filter fun pos => live m pos = true).filter fun pos => live m' pos = true := by
    ext pos
    simp only [Finset.mem_filter]
    have := hdie pos
    tauto
  have hdied : ((Finset.range n).filter fun pos => live m pos = true ∧ live m' pos = false) =
      ((Finset.range n).filter fun pos => live m pos = true).filter fun pos => ¬ live m' pos = true := by
    ext pos
    simp only [Finset.mem_filter, Bool.not_eq_true, and_assoc]
  rw [liveIn, died, hstill, hdied, Finset.card_filter_add_card_filter_not, liveIn]

/-! ### Consistent trees -/

/-- Each counter below `n` counts the live positions of its range (R32). -/
def TreeOf (n : Nat) (m : Memory) (cnt : Store (BitVec 64)) : Prop :=
  ∀ j, j < n → ∃ v, Store.read cnt j = some v ∧ v.toNat = liveIn m (Finset.Icc (lo j) j)

theorem treeConsistent_iff (s : State) : s.treeConsistent ↔ TreeOf s.cntn.toNat s.bytes s.cnt := Iff.rfl

theorem queryLoop_eq {n : Nat} {m : Memory} {cnt : Store (BitVec 64)} (h : TreeOf n m cnt) {fuel j : Nat} (sum : Nat)
    (hj : j < n) (hfuel : j < fuel) : queryLoop cnt fuel j sum = sum + liveIn m (Finset.range (j + 1)) := by
  induction fuel generalizing j sum with
  | zero => omega
  | succ fuel ih =>
    obtain ⟨v, hread, hv⟩ := h j hj
    have hlo := lo_le j
    rw [queryLoop, hread, Option.map_some, Option.getD_some, hv, liveIn_range_eq]
    split
    · next hzero => simp [hzero, liveIn]
    · next hpos => rw [ih _ (by omega) (by omega), Nat.sub_add_cancel (by omega), Nat.add_assoc, Nat.add_comm (liveIn m _)]

/-- R157: on a consistent tree `query(k)` counts the live positions up to `k`. -/
theorem query_eq {n k : Nat} {m : Memory} {cnt : Store (BitVec 64)} (h : TreeOf n m cnt) (hk : k < n) :
    query cnt k = liveIn m (Finset.range (k + 1)) := by
  rw [query, queryLoop_eq h 0 hk (by omega), Nat.zero_add]

/-- R154, R160: `clear(k); update(k)` on a live bit keeps a tree consistent; no counter wraps, for each counts `k`. -/
theorem treeOf_clear_update {n k : Nat} {m : Memory} {cnt : Store (BitVec 64)} (h : TreeOf n m cnt)
    (hlive : live m k = true) : TreeOf n (clear m k) (update n k cnt) := by
  intro j hj
  obtain ⟨v, hread, hv⟩ := h j hj
  simp only [read_update, hread, liveIn_clear hlive, Finset.mem_Icc]
  by_cases hresp : Responsible k j
  · have hpos : 0 < v.toNat := by
      rw [hv, liveIn, Finset.card_pos]
      exact ⟨k, Finset.mem_filter.mpr ⟨Finset.mem_Icc.mpr hresp, hlive⟩⟩
    refine ⟨v - 1, by simp [hj, hresp], ?_⟩
    rw [if_pos hresp, ← hv]
    bv_omega
  · exact ⟨v, by simp [hresp], by rw [if_neg hresp, hv, Nat.sub_zero]⟩

/-- R152: the counters CNTFINIT writes are consistent with the bits. -/
theorem initialCounter_toNat (m : Memory) {j : Nat} (hj : j < 2 ^ 64 - 1) :
    (initialCounter m j).toNat = liveIn m (Finset.Icc (lo j) j) := by
  have hlo := lo_le j
  have hrange : Finset.Ico (lo j) (lo j + (j + 1 - lo j)) = Finset.Icc (lo j) j := by
    ext pos
    simp only [Finset.mem_Ico, Finset.mem_Icc]
    omega
  have hle := liveIn_le m (Finset.Icc (lo j) j)
  rw [Nat.card_Icc] at hle
  rw [initialCounter, liveCount_eq_liveIn, hrange, BitVec.toNat_ofNat, Nat.mod_eq_of_lt (by omega)]

theorem treeOf_overwrite (m : Memory) (cnt : Store (BitVec 64)) {n : Nat} (hn : n < 2 ^ 64) :
    TreeOf n m (Store.overwrite cnt n (initialCounter m)) := by
  intro j hj
  exact ⟨_, by rw [Store.read_overwrite, if_pos hj], initialCounter_toNat m (by omega)⟩

end Sys2Proof.CounterTree
end

section
/-! Proofs for 41_sieve30_cross_off.md R121, R125 to R128 and R134. The steps of a wheel entry go through the multiples of the
prime whose cofactors are coprime to 30, in order and leaving none out; eight of them advance by the prime. A fresh entry
stands at the first such multiple above START. -/

namespace Sys2Proof.WheelWalk

open Sys2Proof Sys2Proof.Machine Sys2Proof.WheelTables

/-! ### One step -/

/-- The place `x = (byte offset, position)` of class `c` is that of the multiple `p * w`, measured from `start` (R134). -/
def Names (start p c : Nat) (x : Nat × Nat) (w : Nat) : Prop :=
  x.2 < 8 ∧ w % 30 = residue x.2 ∧ p * w = start + 30 * x.1 + (residue c * residue x.2) % 30

/-- R122: the gap leads to the next residue. -/
theorem residue_add_DF {j : Nat} (hj : j < 8) : (residue j + DF j) % 30 = residue ((j + 1) % 8) := by
  have slots : ∀ j < 8, (residue j + DF j) % 30 = residue ((j + 1) % 8) := by decide
  exact slots j hj

/-- R124: the carry is what the residues' product gains in whole bytes. -/
theorem residues_add_DF (c : Nat) {j : Nat} (hj : j < 8) :
    (residue c * residue j) % 30 + residue c * DF j = 30 * DC c j + (residue c * residue ((j + 1) % 8)) % 30 := by
  have hmono : residue c * residue j / 30 ≤ residue c * (residue j + DF j) / 30 :=
    Nat.div_le_div_right (Nat.mul_le_mul_left _ (Nat.le_add_right _ _))
  rw [← residue_add_DF hj, Nat.mul_mod_mod, DC]
  rw [Nat.mul_add] at hmono ⊢
  omega

/-- R121: no residue of `W` lies within a gap. -/
theorem gap_not_mem_W {j g : Nat} (hj : j < 8) (h0 : 0 < g) (hg : g < DF j) : (residue j + g) % 30 ∉ W := by
  have slots : ∀ j < 8, ∀ g < DF j, 0 < g → (residue j + g) % 30 ∉ W := by decide
  exact slots j hj g hg h0

theorem two_le_DF {j : Nat} (hj : j < 8) : 2 ≤ DF j := by
  have slots : ∀ j < 8, 2 ≤ DF j := by decide
  exact slots j hj

theorem DF_le {j : Nat} (hj : j < 8) : DF j ≤ 6 := by
  have slots : ∀ j < 8, DF j ≤ 6 := by decide
  exact slots j hj

theorem DC_le {c j : Nat} (hc : c < 8) (hj : j < 8) : DC c j ≤ 6 := by
  have slots : ∀ c < 8, ∀ j < 8, DC c j ≤ 6 := by decide
  exact slots c hc j hj

section
variable {start p c : Nat}

/-- R125: a step goes to the multiple of the next cofactor. -/
theorem names_step (hp : p % 30 = residue c) {m j w : Nat} (h : Names start p c (m, j) w) :
    Names start p c (m + p / 30 * DF j + DC c j, (j + 1) % 8) (w + DF j) := by
  obtain ⟨hj, hw, hmul⟩ := h
  have hstep := residues_add_DF c hj
  have hsplit : p * DF j = 30 * (p / 30 * DF j) + residue c * DF j := by
    conv_lhs => rw [← Nat.div_add_mod p 30, hp]
    ring
  refine ⟨Nat.mod_lt _ (by decide), by rw [← Nat.mod_add_mod, hw, residue_add_DF hj], ?_⟩
  dsimp only at hmul hstep ⊢
  rw [Nat.mul_add, hmul, hsplit]
  omega

/-- The position's bit stands for the multiple (R12, R123). -/
theorem offOf_of_names (hc : c < 8) {m j w : Nat} (h : Names start p c (m, j) w) :
    start + offOf (8 * m + BITPOS c j) = p * w := by
  obtain ⟨hj, -, hmul⟩ := h
  have hbit := BITPOS_lt c j
  have hdiv : (8 * m + BITPOS c j) / 8 = m := by omega
  have hmod : (8 * m + BITPOS c j) % 8 = BITPOS c j := by omega
  rw [offOf, hdiv, hmod, residue_BITPOS hc hj, hmul, Nat.add_assoc]

/-- R121: the cofactors passed over are not coprime to 30. -/
theorem not_coprime_within_gap {j w w' : Nat} (hj : j < 8) (hw : w % 30 = residue j) (hlow : w < w')
    (hhigh : w' < w + DF j) : ¬ Nat.Coprime w' 30 := by
  rw [← mod_mem_W_iff_coprime, show w' = w + (w' - w) by omega, ← Nat.mod_add_mod, hw]
  exact gap_not_mem_W hj (by omega) (by omega)

/-- Settles O35: one step of the walk, measured from 0. -/
theorem crossingStepReachesTheNextMultiple : Obligations.CrossingStepReachesTheNextMultiple := by
  intro p c j m w hc hj hp hw hmul
  have hnames : Names 0 p c (m, j) w := ⟨hj, hw, by simpa using hmul⟩
  obtain ⟨-, hw', hmul'⟩ := names_step hp hnames
  refine ⟨hw', by simpa using hmul', fun w' => not_coprime_within_gap hj hw, ?_⟩
  simpa using offOf_of_names hc hnames

/-! ### Many steps -/

/-- The cofactor after `n` steps from cofactor `w` and position `j`. -/
def cofactorAt (w j : Nat) : Nat → Nat
  | 0 => w
  | n + 1 => cofactorAt w j n + DF ((j + n) % 8)

theorem cofactorAt_strictMono (w j : Nat) : StrictMono (cofactorAt w j) := by
  refine strictMono_nat_of_lt_succ fun n => ?_
  have := two_le_DF (Nat.mod_lt (j + n) (show 0 < 8 by decide))
  rw [cofactorAt]
  omega

/-- The place after `n` steps, in closed form. -/
theorem crossAt_eq (k c m : Nat) {j : Nat} (hj : j < 8) (n : Nat) :
    crossAt k c m j n =
      (m + ((List.range n).map fun i => k * DF ((j + i) % 8) + DC c ((j + i) % 8)).sum, (j + n) % 8) := by
  induction n with
  | zero => simp [crossAt, Nat.mod_eq_of_lt hj]
  | succ n ih =>
    rw [crossAt, ih]
    simp only [List.sum_range_succ, Nat.mod_add_mod, Prod.mk.injEq]
    exact ⟨by omega, by rw [Nat.add_assoc]⟩

theorem crossAt_snd (k c m : Nat) {j : Nat} (hj : j < 8) (n : Nat) : (crossAt k c m j n).2 = (j + n) % 8 := by
  rw [crossAt_eq k c m hj]

theorem crossAt_fst_mono (k c m j : Nat) : Monotone fun n => (crossAt k c m j n).1 := by
  refine monotone_nat_of_le_succ fun n => ?_
  simp only [crossAt]
  omega

/-- Steps may be taken from the front. -/
theorem crossAt_succ_left (k c m j n : Nat) :
    crossAt k c m j (n + 1) = crossAt k c (m + k * DF j + DC c j) ((j + 1) % 8) n := by
  induction n with
  | zero => rfl
  | succ n ih => rw [crossAt, ih, crossAt]

theorem names_walk (hp : p % 30 = residue c) {m j w : Nat} (h : Names start p c (m, j) w) (n : Nat) :
    Names start p c (crossAt (p / 30) c m j n) (cofactorAt w j n) := by
  induction n with
  | zero => exact h
  | succ n ih =>
    rw [cofactorAt, ← crossAt_snd (p / 30) c m h.1]
    exact names_step hp ih

/-- A cofactor from the first one on lies between two steps. -/
theorem exists_between_steps {w w' : Nat} (j : Nat) (hw : w ≤ w') :
    ∃ n, cofactorAt w j n ≤ w' ∧ w' < cofactorAt w j (n + 1) := by
  induction w', hw using Nat.le_induction with
  | base => exact ⟨0, le_rfl, cofactorAt_strictMono w j (Nat.lt_add_one 0)⟩
  | succ w' hw ih =>
    obtain ⟨n, hlow, hhigh⟩ := ih
    rcases Nat.lt_or_ge (w' + 1) (cofactorAt w j (n + 1)) with hlt | hge
    · exact ⟨n, by omega, hlt⟩
    · have hnext := cofactorAt_strictMono w j (Nat.lt_add_one (n + 1))
      exact ⟨n + 1, hge, by omega⟩

/-- R121: no cofactor coprime to 30 is left out. -/
theorem exists_cofactorAt_eq (hp : p % 30 = residue c) {m j w w' : Nat} (h : Names start p c (m, j) w)
    (hw : w ≤ w') (hcop : Nat.Coprime w' 30) : ∃ n, cofactorAt w j n = w' := by
  obtain ⟨n, hlow, hhigh⟩ := exists_between_steps j hw
  refine ⟨n, (Nat.eq_or_lt_of_le hlow).resolve_right fun hlt => ?_⟩
  obtain ⟨hlt8, hmod, -⟩ := names_walk hp h n
  rw [crossAt_snd _ _ _ h.1] at hlt8 hmod
  exact not_coprime_within_gap hlt8 hmod hlt hhigh hcop

/-! ### The cycle -/

theorem sum_DF_cycle {j : Nat} (hj : j < 8) : ((List.range 8).map fun i => DF ((j + i) % 8)).sum = 30 := by
  have slots : ∀ j < 8, ((List.range 8).map fun i => DF ((j + i) % 8)).sum = 30 := by decide
  exact slots j hj

theorem sum_DC_cycle {j : Nat} (hc : c < 8) (hj : j < 8) :
    ((List.range 8).map fun i => DC c ((j + i) % 8)).sum = residue c := by
  have slots : ∀ c < 8, ∀ j < 8, ((List.range 8).map fun i => DC c ((j + i) % 8)).sum = residue c := by decide
  exact slots c hc j hj

/-- R127: a cycle advances the byte offset by the prime. -/
theorem crossAt_eight (hc : c < 8) (hp : p % 30 = residue c) (m : Nat) {j : Nat} (hj : j < 8) :
    crossAt (p / 30) c m j 8 = (m + p, j) := by
  have hcycle : ((List.range 8).map fun i => p / 30 * DF ((j + i) % 8) + DC c ((j + i) % 8)).sum = p := by
    rw [List.sum_map_add, List.sum_map_mul_left, sum_DF_cycle hj, sum_DC_cycle hc hj]
    omega
  rw [crossAt_eq _ _ _ hj, hcycle, Nat.add_mod_right, Nat.mod_eq_of_lt hj]

theorem crossAt_add (k c m j a b : Nat) :
    crossAt k c m j (a + b) = crossAt k c (crossAt k c m j a).1 (crossAt k c m j a).2 b := by
  induction b with
  | zero => rfl
  | succ b ih => rw [← Nat.add_assoc, crossAt, ih, crossAt]

theorem crossAt_cycles (hc : c < 8) (hp : p % 30 = residue c) (m : Nat) {j : Nat} (hj : j < 8) (a : Nat) :
    crossAt (p / 30) c m j (8 * a) = (m + a * p, j) := by
  induction a with
  | zero => simp [crossAt]
  | succ a ih =>
    rw [Nat.mul_add, crossAt_add, ih, Nat.mul_one, crossAt_eight hc hp _ hj]
    ring_nf

theorem nextWheelState_iterate (x n : Nat) : nextWheelState^[n] x = 8 * (x / 8) + (x % 8 + n) % 8 := by
  induction n with
  | zero => simp [Nat.div_add_mod]
  | succ n ih =>
    rw [Function.iterate_succ_apply', ih, nextWheelState]
    omega

/-- Settles O36: the gaps of a cycle add up to 30 and its carries to the residue; the 64 states count modulo 8. -/
theorem cycleAdvancesByThePrime : Obligations.CycleAdvancesByThePrime := by
  refine ⟨fun p c j m hc hj hp => crossAt_eight hc hp m hj, fun k c j m n hj => ?_, fun x hx => ?_⟩
  · rw [crossAt_snd _ _ _ hj, crossAt_snd _ _ _ hj, nextWheelState]
    omega
  · refine ⟨by rw [nextWheelState]; omega, by rw [nextWheelState]; omega, ?_, fun n h0 h8 => ?_⟩
    · rw [nextWheelState_iterate]
      omega
    · rw [nextWheelState_iterate]
      omega

end

/-! ### The entry a new prime starts from -/

section
variable {start p : Nat}

theorem mul_cofactor_gt (h7 : 7 ≤ p) : start < p * (start / p + 1) := by
  have := Nat.div_add_mod start p
  have := Nat.mod_lt start (show 0 < p by omega)
  rw [Nat.mul_add]
  omega

theorem cofactor_le_of_mul_gt {w : Nat} (h : start < p * w) : start / p + 1 ≤ w :=
  Nat.div_lt_of_lt_mul h

/-- The cofactor of a fresh entry (R128). -/
def freshCofactor (start p : Nat) : Nat := start / p + 1 + (wheelInit ((start / p + 1) % 30)).1

theorem freshCofactor_coprime (start p : Nat) : Nat.Coprime (freshCofactor start p) 30 := by
  have hhit := (wheelInit_isLeast ((start / p + 1) % 30)).1
  rwa [Hits, inW_iff, Nat.mod_add_mod, mod_mem_W_iff_coprime] at hhit

theorem wheelInit_le (q : Nat) : (wheelInit q).1 ≤ 5 := by
  obtain ⟨g, hg, hit⟩ := exists_hit q
  by_contra hgt
  exact (wheelInit_isLeast q).2 g g.zero_le (by omega) hit

/-- R128: the cofactor is the least one coprime to 30 whose multiple is above START. -/
theorem freshCofactor_le {w : Nat} (hcop : Nat.Coprime w 30) (h : start < p * w) :
    freshCofactor start p ≤ w := by
  have hq := cofactor_le_of_mul_gt h
  by_contra hgt
  rw [freshCofactor] at hgt
  refine (wheelInit_isLeast ((start / p + 1) % 30)).2 (w - (start / p + 1)) (Nat.zero_le _) (by omega) ?_
  rwa [Hits, inW_iff, Nat.mod_add_mod, mod_mem_W_iff_coprime, Nat.add_sub_cancel' hq]

theorem lt_mul_freshCofactor (h7 : 7 ≤ p) : start < p * freshCofactor start p :=
  (mul_cofactor_gt h7).trans_le (Nat.mul_le_mul_left p (Nat.le_add_right _ _))

theorem mul_freshCofactor_le (start p : Nat) : p * freshCofactor start p ≤ start + 6 * p := by
  have hf := wheelInit_le ((start / p + 1) % 30)
  have hdiv : p * (start / p) ≤ start := Nat.mul_div_le start p
  have hmul : p * (wheelInit ((start / p + 1) % 30)).1 ≤ p * 5 := Nat.mul_le_mul_left p hf
  rw [freshCofactor, Nat.mul_add, Nat.mul_add]
  omega

theorem freshEntry_off (h7 : 7 ≤ p) (hmax : p < 2 ^ 32) :
    (freshEntry start p).off.toNat = (p * freshCofactor start p - start) / 30 := by
  have hle := mul_freshCofactor_le start p
  change (BitVec.ofNat 32 ((p * freshCofactor start p - start) / 30)).toNat = _
  rw [BitVec.toNat_ofNat, Nat.mod_eq_of_lt (by omega)]

theorem freshEntry_idx (start p : Nat) :
    (freshEntry start p).idx.toNat = 8 * cls (p % 30) + cls (freshCofactor start p % 30) := by
  have hindex : cls (((start / p + 1) % 30 + (wheelInit ((start / p + 1) % 30)).1) % 30) =
      cls (freshCofactor start p % 30) := by rw [Nat.mod_add_mod, freshCofactor]
  have h1 := cls_lt (p % 30)
  have h2 := cls_lt (freshCofactor start p % 30)
  change (BitVec.ofNat 8 (wheelOffsets (p % 30) + (wheelInit ((start / p + 1) % 30)).2)).toNat = _
  rw [wheelInit_index, hindex, wheelOffsets, BitVec.toNat_ofNat, Nat.mod_eq_of_lt (by omega)]

theorem freshEntry_class (start p : Nat) : (freshEntry start p).idx.toNat / 8 = cls (p % 30) := by
  have := cls_lt (freshCofactor start p % 30)
  rw [freshEntry_idx]
  omega

theorem freshEntry_position (start p : Nat) :
    (freshEntry start p).idx.toNat % 8 = cls (freshCofactor start p % 30) := by
  have := cls_lt (freshCofactor start p % 30)
  rw [freshEntry_idx]
  omega

theorem freshEntry_namesMultiple (hstart : start % 30 = 0) (h7 : 7 ≤ p) (hmax : p < 2 ^ 32) (hW : p % 30 ∈ W) :
    namesMultiple start (freshEntry start p) p (freshCofactor start p) := by
  have hw : freshCofactor start p % 30 ∈ W := (mod_mem_W_iff_coprime _).mpr (freshCofactor_coprime start p)
  have hlt := lt_mul_freshCofactor (start := start) h7
  rw [namesMultiple, freshEntry_class, freshEntry_position, freshEntry_off h7 hmax, residue_cls hW, residue_cls hw,
    ← Nat.mul_mod]
  exact ⟨rfl, cls_lt _, rfl, by omega⟩

/-- Settles O38: the fresh entry stands at the least cofactor above START, which is at most six primes away. -/
theorem addWheelFindsTheFirstMultiple : Obligations.AddWheelFindsTheFirstMultiple :=
  fun start p hstart h7 hmax hW =>
    ⟨freshCofactor start p, freshEntry_namesMultiple hstart h7 hmax hW, lt_mul_freshCofactor h7,
      fun _ => freshCofactor_le, freshEntry_off h7 hmax, mul_freshCofactor_le start p⟩

theorem freshEntry_tracks (hstart : start % 30 = 0) (h7 : 7 ≤ p) (hmax : p < 2 ^ 32) (hW : p % 30 ∈ W) :
    tracks start (freshEntry start p) p :=
  ⟨_, freshEntry_namesMultiple hstart h7 hmax hW, fun _ => freshCofactor_le⟩

end

end Sys2Proof.WheelWalk
end

section
/-! Proofs for 41_sieve30_cross_off.md R131, R132, R136 and 70_reset_and_hazards.md R203: the crossing loop is the walk of its
wheel entry up to the first offset at or past SIZE. What it does to bits, bytes, counters and the answer is said for one step
and carried along the walk. -/

namespace Sys2Proof.CrossingLoop

open Sys2Proof Sys2Proof.Machine Sys2Proof.WheelTables Sys2Proof.WheelWalk Sys2Proof.CounterTree

section
variable {size k c cntn : Nat} {counted : Bool} {x : Crossing}

/-! ### The loop is a number of steps -/

/-- The walk from a crossing's offset and position is past the segment after `n` steps, and not before. -/
def EndsAt (size k c : Nat) (x : Crossing) (n : Nat) : Prop :=
  (∀ n', n' < n → (crossAt k c x.m x.j n').1 < size) ∧ size ≤ (crossAt k c x.m x.j n).1

/-- The steps taken inside the segment are those before the end. -/
theorem EndsAt.lt_iff {n n' : Nat} (h : EndsAt size k c x n) : n' < n ↔ (crossAt k c x.m x.j n').1 < size := by
  refine ⟨h.1 n', fun hlt => ?_⟩
  by_contra hle
  have hmono : (crossAt k c x.m x.j n).1 ≤ (crossAt k c x.m x.j n').1 :=
    crossAt_fst_mono k c x.m x.j (Nat.not_lt.mp hle)
  exact absurd (h.2.trans hmono) (Nat.not_le.mpr hlt)

theorem crossStep_place (k c cntn : Nat) (counted : Bool) (x : Crossing) :
    (crossStep k c cntn counted x).m = x.m + k * DF x.j + DC c x.j ∧
      (crossStep k c cntn counted x).j = (x.j + 1) % 8 := by
  obtain ⟨-, -, hm, hj⟩ := crossStep_bits k c cntn counted x 0
  exact ⟨hm, hj⟩

theorem iterate_place (k c cntn : Nat) (counted : Bool) (x : Crossing) (n : Nat) :
    crossAt k c x.m x.j n =
      (((crossStep k c cntn counted)^[n] x).m, ((crossStep k c cntn counted)^[n] x).j) := by
  induction n with
  | zero => rfl
  | succ n ih =>
    obtain ⟨hm, hj⟩ := crossStep_place k c cntn counted ((crossStep k c cntn counted)^[n] x)
    rw [Function.iterate_succ_apply', hm, hj, crossAt, ih]

/-- A loop whose walk ends within its fuel takes the steps of the walk. -/
theorem crossLoop_eq_iterate {n fuel : Nat} (h : EndsAt size k c x n) (hfuel : n ≤ fuel) :
    crossLoop size k c cntn counted fuel x = (crossStep k c cntn counted)^[n] x := by
  induction fuel generalizing x n with
  | zero =>
    obtain rfl := Nat.le_zero.mp hfuel
    rfl
  | succ fuel ih =>
    rw [crossLoop]
    cases n with
    | zero =>
      have hpast : size ≤ x.m := h.2
      rw [if_neg (Nat.not_lt.mpr hpast)]
      rfl
    | succ n =>
      obtain ⟨hm, hj⟩ := crossStep_place k c cntn counted x
      have hinside : x.m < size := h.1 0 n.succ_pos
      rw [if_pos hinside, Function.iterate_succ_apply]
      refine ih ⟨fun n' hn' => ?_, ?_⟩ (Nat.le_of_succ_le_succ hfuel)
      · rw [hm, hj, ← crossAt_succ_left]
        exact h.1 (n' + 1) (Nat.succ_lt_succ hn')
      · rw [hm, hj, ← crossAt_succ_left]
        exact h.2

/-- R203: each cycle advances by the prime, so the walk ends within `8 * SIZE + 8` steps. -/
theorem exists_endsAt {p : Nat} (size : Nat) (h7 : 7 ≤ p) (hc : c < 8) (hp : p % 30 = residue c) (hj : x.j < 8) :
    ∃ n ≤ crossFuel size, EndsAt size (p / 30) c x n := by
  have hend : size ≤ (crossAt (p / 30) c x.m x.j (crossFuel size)).1 := by
    have hmul : (size + 1) * 7 ≤ (size + 1) * p := Nat.mul_le_mul_left _ h7
    rw [crossFuel, show 8 * size + 8 = 8 * (size + 1) by omega, crossAt_cycles hc hp _ hj]
    omega
  have hex : ∃ n, size ≤ (crossAt (p / 30) c x.m x.j n).1 := ⟨_, hend⟩
  exact ⟨Nat.find hex, Nat.find_min' hex hend, fun n' hn' => Nat.not_le.mp (Nat.find_min hex hn'), Nat.find_spec hex⟩

/-- R136: what is carried into the next segment fits 32 bits. -/
theorem EndsAt.carry_lt {p n : Nat} (h : EndsAt size (p / 30) c x n) (hc : c < 8) (hj : x.j < 8) (hmax : p < 2 ^ 32)
    (hm : x.m < 2 ^ 32) : (crossAt (p / 30) c x.m x.j n).1 - size < 2 ^ 32 := by
  cases n with
  | zero => exact (Nat.sub_le _ _).trans_lt hm
  | succ n =>
    have hinside := h.1 n n.lt_succ_self
    have hj' : (crossAt (p / 30) c x.m x.j n).2 < 8 := by
      rw [crossAt_snd _ _ _ hj]
      exact Nat.mod_lt _ (by decide)
    have hgap : p / 30 * DF (crossAt (p / 30) c x.m x.j n).2 ≤ p / 30 * 6 := Nat.mul_le_mul_left _ (DF_le hj')
    have hcarry := DC_le hc hj'
    rw [crossAt]
    omega

/-! ### Bits and bytes along the walk -/

/-- The position that step `n` of the walk visits. -/
def visited (k c m j n : Nat) : Nat := 8 * (crossAt k c m j n).1 + BITPOS c (crossAt k c m j n).2

theorem visited_div_eight (k c m j n : Nat) : visited k c m j n / 8 = (crossAt k c m j n).1 := by
  have := BITPOS_lt c (crossAt k c m j n).2
  rw [visited]
  omega

theorem live_iterate (k c cntn : Nat) (counted : Bool) (x : Crossing) (n q : Nat) :
    live ((crossStep k c cntn counted)^[n] x).bytes q = true ↔
      live x.bytes q = true ∧ ∀ n', n' < n → q ≠ visited k c x.m x.j n' := by
  induction n with
  | zero => simp
  | succ n ih =>
    obtain ⟨hlive, -⟩ := crossStep_bits k c cntn counted ((crossStep k c cntn counted)^[n] x) q
    have hplace := iterate_place k c cntn counted x n
    have hvisited : visited k c x.m x.j n = 8 * ((crossStep k c cntn counted)^[n] x).m +
        BITPOS c ((crossStep k c cntn counted)^[n] x).j := by rw [visited, hplace]
    rw [Function.iterate_succ_apply', hlive, Bool.and_eq_true, ih, decide_eq_true_eq, ← hvisited,
      Nat.forall_lt_succ_right, and_assoc]

theorem read_crossStep_other (k c cntn : Nat) (counted : Bool) (x : Crossing) {a : Nat} (ha : a ≠ x.m) :
    Store.read (crossStep k c cntn counted x).bytes a = Store.read x.bytes a := by
  have hbit := BITPOS_lt c x.j
  unfold crossStep
  dsimp only
  split
  · exact read_clear_other _ (by omega)
  · rfl

theorem read_iterate (k c cntn : Nat) (counted : Bool) (x : Crossing) {n a : Nat}
    (ha : ∀ n', n' < n → a ≠ (crossAt k c x.m x.j n').1) :
    Store.read ((crossStep k c cntn counted)^[n] x).bytes a = Store.read x.bytes a := by
  induction n with
  | zero => rfl
  | succ n ih =>
    have hlast := ha n n.lt_succ_self
    rw [iterate_place k c cntn counted x n] at hlast
    rw [Function.iterate_succ_apply', read_crossStep_other _ _ _ _ _ hlast]
    exact ih fun n' hn' => ha n' (Nat.lt_succ_of_lt hn')

theorem isSome_crossStep (k c cntn : Nat) (counted : Bool) (x : Crossing) (a : Nat) :
    (Store.read (crossStep k c cntn counted x).bytes a).isSome = (Store.read x.bytes a).isSome := by
  unfold crossStep
  dsimp only
  split
  · exact read_clear_isSome _ _ _
  · rfl

theorem isSome_iterate (k c cntn : Nat) (counted : Bool) (x : Crossing) (n a : Nat) :
    (Store.read ((crossStep k c cntn counted)^[n] x).bytes a).isSome = (Store.read x.bytes a).isSome := by
  induction n with
  | zero => rfl
  | succ n ih => rw [Function.iterate_succ_apply', isSome_crossStep, ih]

/-! ### The answer: first-time crossings -/

theorem liveIn_crossStep (k c cntn : Nat) (counted : Bool) (x : Crossing) {N : Nat} (hN : 8 * x.m + BITPOS c x.j < N) :
    liveIn (crossStep k c cntn counted x).bytes (Finset.range N) + (crossStep k c cntn counted x).total =
      liveIn x.bytes (Finset.range N) + x.total := by
  unfold crossStep
  dsimp only
  split
  · next hlive =>
    have hpos : 0 < liveIn x.bytes (Finset.range N) :=
      Finset.card_pos.mpr ⟨_, Finset.mem_filter.mpr ⟨Finset.mem_range.mpr hN, hlive⟩⟩
    rw [liveIn_clear hlive, if_pos (Finset.mem_range.mpr hN)]
    dsimp only
    omega
  · rfl

/-- Each step inside the segment adds to the count what it takes from the live bits. -/
theorem liveIn_iterate (k c cntn : Nat) (counted : Bool) (x : Crossing) {n : Nat}
    (hinside : ∀ n', n' < n → (crossAt k c x.m x.j n').1 < size) :
    liveIn ((crossStep k c cntn counted)^[n] x).bytes (Finset.range (8 * size)) +
        ((crossStep k c cntn counted)^[n] x).total =
      liveIn x.bytes (Finset.range (8 * size)) + x.total := by
  induction n with
  | zero => rfl
  | succ n ih =>
    have hlast := hinside n n.lt_succ_self
    rw [iterate_place k c cntn counted x n] at hlast
    have hbit := BITPOS_lt c ((crossStep k c cntn counted)^[n] x).j
    rw [Function.iterate_succ_apply', liveIn_crossStep _ _ _ _ _ (by omega)]
    exact ih fun n' hn' => hinside n' (Nat.lt_succ_of_lt hn')

/-! ### Counters -/

theorem treeOf_crossStep (k c cntn : Nat) {x : Crossing} (h : TreeOf cntn x.bytes x.cnt) :
    TreeOf cntn (crossStep k c cntn true x).bytes (crossStep k c cntn true x).cnt := by
  unfold crossStep
  dsimp only
  split
  · next hlive => exact treeOf_clear_update h hlive
  · exact h

/-- A counted walk keeps a consistent tree consistent (R159). -/
theorem treeOf_iterate (k c cntn : Nat) {x : Crossing} (h : TreeOf cntn x.bytes x.cnt) (n : Nat) :
    TreeOf cntn ((crossStep k c cntn true)^[n] x).bytes ((crossStep k c cntn true)^[n] x).cnt := by
  induction n with
  | zero => exact h
  | succ n ih =>
    rw [Function.iterate_succ_apply']
    exact treeOf_crossStep k c cntn ih

theorem read_cnt_crossStep (k c cntn : Nat) (counted : Bool) (x : Crossing) (a : Nat) :
    (Store.read (crossStep k c cntn counted x).cnt a).isSome = (Store.read x.cnt a).isSome ∧
      (cntn ≤ a → Store.read (crossStep k c cntn counted x).cnt a = Store.read x.cnt a) := by
  unfold crossStep
  dsimp only
  split
  · dsimp only
    split
    · exact ⟨updateLoop_present _ _ _ _ _, fun ha => updateLoop_outside _ _ _ _ (.inr ha)⟩
    · exact ⟨rfl, fun _ => rfl⟩
  · exact ⟨rfl, fun _ => rfl⟩

/-- No walk gives or takes a counter's value, nor touches one above those in use. -/
theorem read_cnt_iterate (k c cntn : Nat) (counted : Bool) (x : Crossing) (n a : Nat) :
    (Store.read ((crossStep k c cntn counted)^[n] x).cnt a).isSome = (Store.read x.cnt a).isSome ∧
      (cntn ≤ a → Store.read ((crossStep k c cntn counted)^[n] x).cnt a = Store.read x.cnt a) := by
  induction n with
  | zero => exact ⟨rfl, fun _ => rfl⟩
  | succ n ih =>
    obtain ⟨hsome, houtside⟩ := read_cnt_crossStep k c cntn counted ((crossStep k c cntn counted)^[n] x) a
    rw [Function.iterate_succ_apply']
    exact ⟨hsome.trans ih.1, fun ha => (houtside ha).trans (ih.2 ha)⟩

/-- Two crossings that agree but for their counters. -/
structure SameButCounters (x y : Crossing) : Prop where
  bytes : x.bytes = y.bytes
  m : x.m = y.m
  j : x.j = y.j
  total : x.total = y.total

/-- Whether counters are kept makes no difference to bits, place and answer. -/
theorem SameButCounters.crossStep {y : Crossing} (h : SameButCounters x y) :
    SameButCounters (crossStep k c cntn counted x) (crossStep k c cntn false y) := by
  obtain ⟨hb, hm, hj, ht⟩ := h
  unfold Machine.crossStep
  dsimp only
  rw [hb, hm, hj]
  split
  · exact ⟨rfl, rfl, rfl, by rw [ht]⟩
  · exact ⟨rfl, rfl, rfl, ht⟩

theorem SameButCounters.crossLoop {y : Crossing} (h : SameButCounters x y) (fuel : Nat) :
    SameButCounters (crossLoop size k c cntn counted fuel x) (crossLoop size k c cntn false fuel y) := by
  induction fuel generalizing x y with
  | zero => exact h
  | succ fuel ih =>
    rw [Machine.crossLoop, Machine.crossLoop, h.m]
    split
    · exact ih h.crossStep
    · exact h

end

/-- Settles O39: the loop is the walk up to its end, whatever fuel is left. -/
theorem crossingLoopEnds : Obligations.CrossingLoopEnds := by
  intro size p c cntn counted x h7 hc hp hj
  obtain ⟨n, hn, hend⟩ := exists_endsAt size h7 hc hp hj
  have hm : (crossLoop size (p / 30) c cntn counted (crossFuel size) x).m = (crossAt (p / 30) c x.m x.j n).1 := by
    rw [crossLoop_eq_iterate hend hn, iterate_place (p / 30) c cntn counted x n]
  refine ⟨by rw [hm]; exact hend.2, fun fuel hfuel => ?_, fun hmax hm32 => by rw [hm]; exact hend.carry_lt hc hj hmax hm32⟩
  rw [crossLoop_eq_iterate hend hn, crossLoop_eq_iterate hend (hn.trans hfuel)]

end Sys2Proof.CrossingLoop
end

section
/-! Proofs for 41_sieve30_cross_off.md R120, R131 to R134. A crossing body is the walk of its entry: that gives the bits it
kills, its answer and the entry it leaves. Where the entry tracks its prime, the walk goes through exactly the multiples of
the prime in the segment. -/

namespace Sys2Proof.CrossingBody

open Sys2Proof Sys2Proof.Machine Sys2Proof.WheelTables Sys2Proof.WheelWalk Sys2Proof.CounterTree Sys2Proof.CrossingLoop
open Sys2Proof.Commands Sys2Proof.Responses Sys2Proof.Positions

/-! ### The body as a walk -/

/-- What a crossing body holds when its loop begins, for the entry `e`. -/
def startOf (s : State) (e : WheelEntry) : Crossing where
  bytes := s.bytes
  cnt := s.cnt
  m := e.off.toNat
  j := e.idx.toNat % 8
  total := 0

/-- The place of a body's walk after `n` steps. -/
abbrev walk (p : Nat) (e : WheelEntry) (n : Nat) : Nat × Nat :=
  crossAt (p / 30) (e.idx.toNat / 8) e.off.toNat (e.idx.toNat % 8) n

/-- What a body holds after `n` steps. -/
abbrev steps (s : State) (p : Nat) (counted : Bool) (e : WheelEntry) (n : Nat) : Crossing :=
  (crossStep (p / 30) (e.idx.toNat / 8) s.cntn.toNat counted)^[n] (startOf s e)

/-- The body `i, p` took `n` steps from `e` to the end of the segment, left `t` and counted `v`. -/
structure BodyRun (s : State) (i p : Nat) (counted : Bool) (e : WheelEntry) (n : Nat) (t : State) (v : Nat) : Prop where
  entry : s.entryAt i p = some e
  class_eq : e.idx.toNat / 8 = cls (p % 30)
  ends : EndsAt s.size.toNat (p / 30) (e.idx.toNat / 8) (startOf s e) n
  bytes : t.bytes = (steps s p counted e n).bytes
  cnt : t.cnt = (steps s p counted e n).cnt
  answer : v = (steps s p counted e n).total
  own : ∃ e', Store.read t.wheel i = some e' ∧ e'.off.toNat = (walk p e n).1 - s.size.toNat ∧
    e'.idx.toNat = 8 * (e.idx.toNat / 8) + (walk p e n).2

section
variable {s t : State} {i p v n : Nat} {counted : Bool} {e : WheelEntry}

/-- Line 1 of R131: the entry a body starts from is the one it finds. -/
theorem entryAt_of_read (h : Store.read (if i = s.wheelCount then s.addWheel p else s).wheel i = some e) :
    s.entryAt i p = some e := by
  by_cases hnew : i = s.wheelCount
  · rw [if_pos hnew, State.addWheel_wheel, ← hnew, Store.read_write_same] at h
    rw [State.entryAt, if_pos hnew, h]
  · rw [if_neg hnew] at h
    rw [State.entryAt, if_neg hnew, h]

/-- R30, check 4 of R130: the class of the entry is that of the prime, for a stored entry and a fresh one. -/
theorem class_of_entryAt (hx : s.crossable i p) (h : s.entryAt i p = some e) : e.idx.toNat / 8 = cls (p % 30) := by
  obtain ⟨-, hcount, -, -, -, -, hclass⟩ := hx
  rw [State.entryAt] at h
  split at h
  · cases h
    exact freshEntry_class _ _
  · exact hclass e (by omega) h

/-- The loop of a body that starts from `e` (R131, lines 2 to 13). -/
def loopFrom (s : State) (p : Nat) (counted : Bool) (e : WheelEntry) : Crossing :=
  crossLoop s.size.toNat (p / 30) (e.idx.toNat / 8) s.cntn.toNat counted (crossFuel s.size.toNat) (startOf s e)

/-- A body writes what its loop holds at the end, whether its entry is stored or new. -/
theorem crossBody_eq_loopFrom (h : s.crossBody i p counted = some (t, v)) :
    ∃ e, s.entryAt i p = some e ∧ t.bytes = (loopFrom s p counted e).bytes ∧ t.cnt = (loopFrom s p counted e).cnt ∧
      v = (loopFrom s p counted e).total ∧
      Store.read t.wheel i = some
        { off := BitVec.ofNat 32 ((loopFrom s p counted e).m - s.size.toNat),
          idx := BitVec.ofNat 8 (8 * (e.idx.toNat / 8) + (loopFrom s p counted e).j) } := by
  obtain ⟨s1, e, hs1, hread, ht⟩ := crossBody_cases h
  have hentry : s.entryAt i p = some e := entryAt_of_read (hs1 ▸ hread)
  obtain ⟨rfl, rfl⟩ := Prod.mk.inj ht
  have hloop : loopFrom s1 p counted e = loopFrom s p counted e := by
    rw [hs1]
    split <;> rfl
  have hsize : s1.size = s.size := by
    rw [hs1]
    split <;> rfl
  refine ⟨e, hentry, ?_⟩
  rw [← hloop, ← hsize]
  exact ⟨rfl, rfl, rfl, Store.read_write_same _ _ _⟩

theorem bodyRun_of_crossBody (hx : s.crossable i p) (h : s.crossBody i p counted = some (t, v)) :
    ∃ e n, BodyRun s i p counted e n t v := by
  obtain ⟨e, hentry, hbytes, hcnt, hanswer, hown⟩ := crossBody_eq_loopFrom h
  have hclass := class_of_entryAt hx hentry
  obtain ⟨-, -, -, h7, hmax, hW, -⟩ := hx
  have hc : e.idx.toNat / 8 < 8 := hclass ▸ cls_lt _
  have hp : p % 30 = residue (e.idx.toNat / 8) := by rw [hclass, residue_cls hW]
  have hj : (startOf s e).j < 8 := Nat.mod_lt _ (by decide)
  obtain ⟨n, hn, hends⟩ := exists_endsAt s.size.toNat h7 hc hp hj
  have hloop : loopFrom s p counted e = steps s p counted e n := crossLoop_eq_iterate hends hn
  have hplace : walk p e n = ((steps s p counted e n).m, (steps s p counted e n).j) :=
    iterate_place (p / 30) (e.idx.toNat / 8) s.cntn.toNat counted (startOf s e) n
  have hcarry : (walk p e n).1 - s.size.toNat < 2 ^ 32 := hends.carry_lt hc hj hmax e.off.isLt
  have hj' : (walk p e n).2 < 8 := by
    rw [crossAt_snd _ _ _ (Nat.mod_lt _ (by decide))]
    exact Nat.mod_lt _ (by decide)
  rw [hloop] at hbytes hcnt hanswer hown
  rw [hplace] at hcarry hj'
  refine ⟨e, n, hentry, hclass, hends, hbytes, hcnt, hanswer, _, hown, ?_, ?_⟩
  · rw [hplace, BitVec.toNat_ofNat, Nat.mod_eq_of_lt hcarry]
  · rw [hplace, BitVec.toNat_ofNat, Nat.mod_eq_of_lt (by omega)]

/-! ### Bits, bytes and the answer -/

theorem BodyRun.live_iff (h : BodyRun s i p counted e n t v) (q : Nat) :
    live t.bytes q = true ↔ live s.bytes q = true ∧
      ∀ n', n' < n → q ≠ visited (p / 30) (e.idx.toNat / 8) e.off.toNat (e.idx.toNat % 8) n' := by
  rw [h.bytes]
  exact live_iterate _ _ _ _ (startOf s e) n q

theorem BodyRun.bits_only_die (h : BodyRun s i p counted e n t v) (q : Nat) (hq : live t.bytes q = true) :
    live s.bytes q = true := ((h.live_iff q).mp hq).1

theorem BodyRun.read_isSome (h : BodyRun s i p counted e n t v) (a : Nat) :
    (Store.read t.bytes a).isSome = (Store.read s.bytes a).isSome := by
  rw [h.bytes]
  exact isSome_iterate _ _ _ _ (startOf s e) n a

theorem BodyRun.read_other (h : BodyRun s i p counted e n t v) {a : Nat} (ha : ∀ n', n' < n → a ≠ (walk p e n').1) :
    Store.read t.bytes a = Store.read s.bytes a := by
  rw [h.bytes]
  exact read_iterate _ _ _ _ (startOf s e) ha

theorem BodyRun.lt_iff (h : BodyRun s i p counted e n t v) {n' : Nat} : n' < n ↔ (walk p e n').1 < s.size.toNat :=
  h.ends.lt_iff

/-- R133: the answer is the number of bits that died. -/
theorem BodyRun.answer_eq (h : BodyRun s i p counted e n t v) : v = died s.bytes t.bytes (8 * s.size.toNat) := by
  have hsum : liveIn (steps s p counted e n).bytes (Finset.range (8 * s.size.toNat)) + (steps s p counted e n).total =
      liveIn s.bytes (Finset.range (8 * s.size.toNat)) := liveIn_iterate _ _ s.cntn.toNat counted (startOf s e) h.ends.1
  have hdied := liveIn_add_died h.bits_only_die (8 * s.size.toNat)
  rw [← h.bytes, ← h.answer] at hsum
  omega

theorem died_le (m m' : Memory) (n : Nat) : died m m' n ≤ n :=
  (Finset.card_filter_le _ _).trans_eq (Finset.card_range n)

/-! ### Multiples -/

/-- An entry that tracks names a multiple, as a place of the walk. -/
theorem names_of_namesMultiple {start w : Nat} (h : namesMultiple start e p w) :
    e.idx.toNat / 8 < 8 ∧ p % 30 = residue (e.idx.toNat / 8) ∧
      Names start p (e.idx.toNat / 8) (e.off.toNat, e.idx.toNat % 8) w := by
  obtain ⟨hp, hc, hw, hmul⟩ := h
  exact ⟨hc, hp, Nat.mod_lt _ (by decide), hw, hmul⟩

theorem names_at_walk {start w : Nat} (hp : p % 30 = residue (e.idx.toNat / 8))
    (h : Names start p (e.idx.toNat / 8) (e.off.toNat, e.idx.toNat % 8) w) (n : Nat) :
    Names start p (e.idx.toNat / 8) (walk p e n) (cofactorAt w (e.idx.toNat % 8) n) := names_walk hp h n

/-- A new entry tracks its prime because `add_wheel` makes it so; a stored one by hypothesis. -/
theorem tracks_of_entryAt (hx : s.crossable i p) (hstart : s.start.toNat % 30 = 0)
    (hstored : ∀ e, i < s.wheelCount → Store.read s.wheel i = some e → tracks s.start.toNat e p)
    (h : s.entryAt i p = some e) : tracks s.start.toNat e p := by
  obtain ⟨-, hcount, -, h7, hmax, hW, -⟩ := hx
  rw [State.entryAt] at h
  split at h
  · cases h
    exact freshEntry_tracks hstart h7 hmax hW
  · exact hstored e (by omega) h

theorem coprime_integerAt (hstart : s.start.toNat % 30 = 0) (pos : Nat) : Nat.Coprime (s.integerAt pos) 30 := by
  rw [← mod_mem_W_iff_coprime, State.integerAt, ← Nat.mod_add_mod, hstart, Nat.zero_add]
  exact represented_offOf pos

theorem offOf_pos (pos : Nat) : 0 < offOf pos := by
  refine Nat.pos_of_ne_zero fun hzero => ?_
  have := represented_offOf pos
  rw [hzero] at this
  exact absurd this (by decide)

theorem offOf_inj {a b : Nat} (h : offOf a = offOf b) : a = b := by
  rw [← below_offOf a, h, below_offOf]

/-- R120: where the entry tracks `p`, the steps inside the segment visit exactly the positions of the multiples of `p`. -/
theorem BodyRun.visits_iff (h : BodyRun s i p counted e n t v) (hstart : s.start.toNat % 30 = 0)
    (htracks : tracks s.start.toNat e p) {pos : Nat} (hpos : pos < 8 * s.size.toNat) :
    (∃ n', n' < n ∧ pos = visited (p / 30) (e.idx.toNat / 8) e.off.toNat (e.idx.toNat % 8) n') ↔
      p ∣ s.integerAt pos := by
  obtain ⟨w, hnames, hleast⟩ := htracks
  obtain ⟨hc, hp, hnames⟩ := names_of_namesMultiple hnames
  have hoff (n' : Nat) := offOf_of_names hc (names_at_walk hp hnames n')
  constructor
  · rintro ⟨n', -, rfl⟩
    exact ⟨_, hoff n'⟩
  · rintro ⟨w', hw'⟩
    have hcop : Nat.Coprime w' 30 := Nat.Coprime.coprime_mul_left (hw' ▸ coprime_integerAt hstart pos)
    have habove : s.start.toNat < p * w' := by
      rw [← hw', State.integerAt]
      have := offOf_pos pos
      omega
    obtain ⟨n', rfl⟩ := exists_cofactorAt_eq hp hnames (hleast w' hcop habove) hcop
    have hvisit : pos = visited (p / 30) (e.idx.toNat / 8) e.off.toNat (e.idx.toNat % 8) n' := by
      refine offOf_inj ?_
      have := hw'.trans (hoff n').symm
      rw [State.integerAt] at this
      exact Nat.add_left_cancel this
    refine ⟨n', h.lt_iff.mpr ?_, hvisit⟩
    rw [← visited_div_eight, ← hvisit]
    omega

/-- R28: the bits left are those of integers `p` does not divide. -/
theorem BodyRun.live_iff_not_dvd (h : BodyRun s i p counted e n t v) (hstart : s.start.toNat % 30 = 0)
    (htracks : tracks s.start.toNat e p) {pos : Nat} (hpos : pos < 8 * s.size.toNat) :
    live t.bytes pos = true ↔ live s.bytes pos = true ∧ ¬ p ∣ s.integerAt pos := by
  rw [h.live_iff, ← h.visits_iff hstart htracks hpos]
  simp only [not_exists, not_and, ne_eq]

/-- R134: the entry a body leaves tracks the prime from the end of the segment on. -/
theorem BodyRun.tracks_next (h : BodyRun s i p counted e n t v) (htracks : tracks s.start.toNat e p) :
    ∃ e', Store.read t.wheel i = some e' ∧ tracks (s.start.toNat + 30 * s.size.toNat) e' p := by
  obtain ⟨w, hnames, hleast⟩ := htracks
  obtain ⟨hc, hp, hnames⟩ := names_of_namesMultiple hnames
  obtain ⟨e', hread, hoff, hidx⟩ := h.own
  obtain ⟨hj, hw, hmul⟩ := names_at_walk hp hnames n
  have hclass : e'.idx.toNat / 8 = e.idx.toNat / 8 := by omega
  have hposition : e'.idx.toNat % 8 = (walk p e n).2 := by omega
  have hpast : s.size.toNat ≤ (walk p e n).1 := h.ends.2
  refine ⟨e', hread, _, ⟨by rw [hclass, hp], by rw [hclass]; exact hc, by rw [hw, hposition], ?_⟩, fun w' hcop habove => ?_⟩
  · rw [hmul, hclass, hposition, hoff]
    omega
  · by_contra hlt
    obtain ⟨n', rfl⟩ := exists_cofactorAt_eq hp hnames (hleast w' hcop (by omega)) hcop
    have hn' : n' < n := (cofactorAt_strictMono w (e.idx.toNat % 8)).lt_iff_lt.mp (Nat.not_le.mp hlt)
    have hinside : (walk p e n').1 < s.size.toNat := h.lt_iff.mp hn'
    obtain ⟨-, -, hmul'⟩ := names_at_walk hp hnames n'
    have hmod := Nat.mod_lt (residue (e.idx.toNat / 8) * residue (walk p e n').2) (show 0 < 30 by decide)
    omega

end

/-! ### CROSSOFF -/

section
variable {s : State} {i p : Word64}

/-- R131: where its checks hold, CROSSOFF runs its body. -/
theorem crossoff_completes (hs : s.Inv) (hf : s.fault = false) (hv : s.sieveValid = true)
    (hx : s.crossable i.toNat p.toNat) :
    ∃ u v, s.crossBody i.toNat p.toNat false = some (u, v) ∧
      exec (.crossoff i p) s = .next (u.invalidateCounters.respond v) := by
  have hc := hs.sieve_created hv
  have hchecks := (crossingChecks_hold_iff i.toNat p.toNat).mpr hx
  obtain ⟨u, v, hbody, -⟩ := crossBody_of_checks hs hc false hchecks
  have hholds : ∀ x ∈ (s.sieveValid, .state) :: s.crossingChecks i.toNat p.toNat, x.1 = true :=
    List.forall_mem_cons.mpr ⟨hv, hchecks⟩
  refine ⟨u, v, hbody, ?_⟩
  rw [exec_crossoff, execCrossoff, runCommand_of_holding hf (fun _ => hc) ((firstFailing_eq_none _).mpr hholds)]
  simp only [hbody, whenReadable_eq_next, sieveReadable_of_inv hs hv, and_self]

theorem crossBody_uncounted_frame {u : State} {i p v : Nat} (h : s.crossBody i p false = some (u, v)) :
    u = { s with bytes := u.bytes, wheel := u.wheel, wcnt := u.wcnt } := by
  conv_lhs => rw [crossBody_frame h, crossBody_uncounted h]

/-- `WCNT` after a body: check 2 of R130 lets it grow by at most one, up to the capacity. -/
theorem crossBody_wheelCount_eq_max {u : State} {i p v : Nat} {counted : Bool} (hx : s.crossable i p)
    (h : s.crossBody i p counted = some (u, v)) : u.wheelCount = max s.wheelCount (i + 1) := by
  obtain ⟨-, hcount, hcap, -⟩ := hx
  have hcap32 : s.wheelCapacity ≤ 2 ^ 32 := entryNumber_le s.wcap
  rw [crossBody_wheelCount h (by omega)]
  split <;> omega

end

/-- Settles O41: CROSSOFF is its body, whose walk says what dies and is counted. -/
theorem crossoffCountsFirstTimeCrossings : Obligations.CrossoffCountsFirstTimeCrossings := by
  intro i p s hs hf hv hx
  obtain ⟨u, v, hbody, hexec⟩ := crossoff_completes hs hf hv hx
  obtain ⟨e, n, hrun⟩ := bodyRun_of_crossBody hx hbody
  have hle := died_le s.bytes u.bytes (8 * s.size.toNat)
  have hsize := s.size.isLt
  have hcount : (u.invalidateCounters.respond v).wheelCount = u.wheelCount := rfl
  have hother (b : Nat) (hb : b ≠ i.toNat) : Store.read u.wheel b = Store.read s.wheel b := crossBody_wheel_other hbody hb
  refine ⟨_, hexec, hrun.bits_only_die, hrun.read_isSome, hother,
    hcount.trans (crossBody_wheelCount_eq_max hx hbody), ?_, ?_⟩
  · simp only [State.respond_bytes, State.invalidateCounters_bytes]
    omega
  · rw [hrun.answer_eq]
    conv_lhs => rw [crossBody_uncounted_frame hbody]
    rfl

/-- Settles O42: the bits that die, the bytes left alone and the entry left are those of the walk. -/
theorem crossoffVisitsItsPositions : Obligations.CrossoffVisitsItsPositions := by
  intro i p s e hs hf hv hx hentry
  obtain ⟨u, v, hbody, hexec⟩ := crossoff_completes hs hf hv hx
  obtain ⟨e', n, hrun⟩ := bodyRun_of_crossBody hx hbody
  obtain rfl : e' = e := Option.some.inj (hrun.entry.symm.trans hentry)
  obtain ⟨left, hread, hoff, hidx⟩ := hrun.own
  refine ⟨_, hexec, fun pos => ?_, fun a ha => ?_, n, _, _, left, rfl, hrun.ends.2, hrun.ends.1, hread, hoff, hidx⟩
  · rw [State.respond_bytes, State.invalidateCounters_bytes, hrun.live_iff]
    exact and_congr_right fun _ => forall_congr' fun n' => imp_congr hrun.lt_iff Iff.rfl
  · exact hrun.read_other fun n' hn' => ha n' (hrun.lt_iff.mp hn')

/-- Settles O43: the walk of a tracking entry goes through the multiples of its prime. -/
theorem crossoffRemovesExactlyTheMultiples : Obligations.CrossoffRemovesExactlyTheMultiples := by
  intro i p s hs hf hv hx hstored
  obtain ⟨hstart, -⟩ := hs.registers (hs.sieve_created hv)
  obtain ⟨u, v, hbody, hexec⟩ := crossoff_completes hs hf hv hx
  obtain ⟨e, n, hrun⟩ := bodyRun_of_crossBody hx hbody
  have htracks := tracks_of_entryAt hx hstart hstored hrun.entry
  exact ⟨_, hexec, fun pos hpos => hrun.live_iff_not_dvd hstart htracks hpos, hrun.tracks_next htracks⟩

end Sys2Proof.CrossingBody
end

section
/-! Proofs about the cells of a memory (10_state.md R27, R29): a memory in canonical form is determined by what reads give. -/

namespace Sys2Proof.Cells

open Sys2Proof Sys2Proof.Machine Sys2Proof.Responses

section
variable {α : Type} {m m' : Store α}

/-- The cells that hold values are the listed addresses, exactly when the form is canonical and reads say so. -/
theorem keys_eq_iff {l : List Nat} (hl : l.Pairwise (· < ·)) :
    m.map Prod.fst = l ↔ Store.wf m ∧ ∀ a, (Store.read m a).isSome = true ↔ a ∈ l := by
  simp only [read_isSome_iff]
  constructor
  · rintro rfl
    exact ⟨List.pairwise_map.mp hl, fun _ => Iff.rfl⟩
  · rintro ⟨hwf, hmem⟩
    have hkeys : (m.map Prod.fst).Pairwise (· < ·) := List.pairwise_map.mpr hwf
    exact hkeys.eq_of_mem_iff hl fun {a} => hmem a

/-- The same cells hold values in two memories in canonical form in which the same reads give one. -/
theorem keys_eq_of_isSome_eq (hwf : Store.wf m) (hwf' : Store.wf m')
    (h : ∀ a, (Store.read m' a).isSome = (Store.read m a).isSome) : m'.map Prod.fst = m.map Prod.fst :=
  (keys_eq_iff (List.pairwise_map.mpr hwf)).mpr ⟨hwf', fun a => by rw [h, read_isSome_iff]⟩

theorem read_of_mem (hwf : Store.wf m) {x : Nat × α} (hx : x ∈ m) : Store.read m x.1 = some x.2 := by
  induction m with
  | nil => cases hx
  | cons y m ih =>
    obtain ⟨hfirst, hrest⟩ := List.pairwise_cons.mp hwf
    rcases List.mem_cons.mp hx with rfl | hx
    · exact if_pos rfl
    · exact (if_neg (hfirst x hx).ne).trans (ih hrest hx)

theorem mem_of_read {a : Nat} {v : α} (h : Store.read m a = some v) : (a, v) ∈ m := by
  induction m with
  | nil => cases h
  | cons y m ih =>
    obtain ⟨k, w⟩ := y
    rw [Store.read_cons] at h
    split at h
    · next hk =>
      cases h
      exact hk ▸ List.mem_cons_self
    · exact List.mem_cons_of_mem _ (ih h)

theorem covers_of_isSome_eq {n : Nat} (h : ∀ a, (Store.read m' a).isSome = (Store.read m a).isSome)
    (hcovers : Store.covers m n = true) : Store.covers m' n = true := by
  simpa only [Store.covers, h] using hcovers

end

end Sys2Proof.Cells
end

section
/-! Proofs for the rule that every step keeps the invariant (10_state.md sections 2 to 7): each part of a step keeps it, and a
step is one of a few such parts. PRESIEVE's cross-offs are a chain of crossing bodies, each started where its checks hold. -/

namespace Sys2Proof.Invariant

open Sys2Proof Sys2Proof.Machine Sys2Proof.Responses Sys2Proof.Cells Sys2Proof.WheelTables Sys2Proof.CrossingBody
open Sys2Proof.Effects Sys2Proof.SegmentSize

section
variable {s t u : State}

/-! ### Answers, faults and reset -/

theorem answer_inv (hs : s.Inv) (w : ResponseWord) : (s.answer w).Inv :=
  { hs with index := by simp [hs.index] }

theorem respond_inv (hs : s.Inv) (v : Nat) : (s.respond v).Inv := answer_inv hs _

theorem stickyAnswer_inv (hs : s.Inv) : s.stickyAnswer.Inv := answer_inv hs _

theorem code_le (c : Cause) : c.code.toNat ≤ 5 := by cases c <;> decide

theorem raiseFault_inv (hs : s.Inv) (c : Cause) : (s.raiseFault c).Inv := by
  have hfaulted : ({ s with fault := true, cause := c.code } : State).Inv :=
    { hs with cause_iff := ⟨fun h0 => absurd h0 (code_ne_zero c), nofun⟩, cause_le := code_le c }
  exact answer_inv hfaulted _

theorem answerIllegal_inv (hs : s.Inv) : s.answerIllegal.Inv := by
  rcases answerIllegal_cases s with ⟨-, heq⟩ | ⟨-, heq⟩ <;> rw [heq]
  · exact stickyAnswer_inv hs
  · exact raiseFault_inv hs .illegal

/-- R36: right after reset no flag claims anything. -/
theorem afterReset_inv {cfg : Config} (hcfg : cfg.wf = true) : (State.afterReset cfg).Inv where
  cfg_wf := hcfg
  index := rfl
  cause_iff := by simp [State.afterReset]
  cause_le := by simp [State.afterReset]
  sieve_created := nofun
  primed_sieve := rfl
  cnt_sieve := nofun
  registers := nofun
  bytes_present := rfl
  wheel_present := rfl
  wheel_states := nofun
  cnt_wf := List.Pairwise.nil
  counters_present := nofun

theorem applyReset_inv (hs : s.Inv) : s.applyReset.Inv :=
  { afterReset_inv hs.cfg_wf with }

/-! ### NEW and CNTFINIT -/

theorem newSieve_inv (hs : s.Inv) {a b c : Word64} (h : NewAccepts s.cfg a.toNat b.toNat c.toNat) :
    (s.newSieve a.toNat b.toNat c.toNat).Inv := by
  obtain ⟨ha, hb, hmin, hmax, hcap, hsum⟩ := h
  obtain ⟨-, -, -, hwheel4, hwheel, -⟩ := (config_wf_iff _).mp hs.cfg_wf
  have hsize := newSieve_size_toNat s a.toNat c.toNat hmax hs.cfg_wf
  have hcapacity := newSieve_wheelCapacity s a.toNat b.toNat (hcap.trans hwheel)
  have hcount := newSieve_wheelCount s a.toNat b.toNat c.toNat
  have hstart : (s.newSieve a.toNat b.toNat c.toNat).start.toNat = a.toNat := by simp
  have hcfg : (s.newSieve a.toNat b.toNat c.toNat).cfg = s.cfg := rfl
  exact
    { cfg_wf := hs.cfg_wf
      index := hs.index
      cause_iff := hs.cause_iff
      cause_le := hs.cause_le
      sieve_created := nofun
      primed_sieve := rfl
      cnt_sieve := nofun
      registers := fun _ => by rw [hsize, hcapacity, hcount, hstart, hcfg]; omega
      bytes_present := rfl
      wheel_present := rfl
      wheel_states := nofun
      cnt_wf := List.Pairwise.nil
      counters_present := nofun }

theorem toNat_eight_mul_size (size : BitVec 32) : (BitVec.ofNat 64 (8 * size.toNat)).toNat = 8 * size.toNat := by
  have := size.isLt
  rw [BitVec.toNat_ofNat, Nat.mod_eq_of_lt (by omega)]

theorem initCounters_inv (hs : s.Inv) (hv : s.sieveValid = true) : s.initCounters.Inv := by
  have hcntn : s.initCounters.cntn.toNat = 8 * s.size.toNat := toNat_eight_mul_size s.size
  refine { hs with
    cnt_sieve := fun _ => hv, cnt_wf := Store.wf_overwrite hs.cnt_wf _ _, counters_present := fun _ => ⟨hcntn, ?_⟩ }
  rw [hcntn, Store.covers_iff]
  intro a ha
  exact ⟨_, by rw [State.initCounters_cnt, Store.read_overwrite, if_pos ha]⟩

theorem invalidateCounters_inv (hs : s.Inv) : s.invalidateCounters.Inv :=
  { hs with cnt_sieve := nofun, counters_present := nofun }

/-! ### Crossing bodies -/

/-- Bits may change within the bytes that hold values, counters within those that do, and entries as long as the wheel holds
those that `WCNT` counts. -/
theorem inv_of_cells (hs : s.Inv) (hc : s.created = true) {b : Memory} {c : Store (BitVec 64)} {w : Store WheelEntry}
    {n : BitVec 32} (hb : b.map Prod.fst = s.bytes.map Prod.fst) (hcwf : Store.wf c)
    (hcsome : ∀ a, (Store.read c a).isSome = (Store.read s.cnt a).isSome)
    (hw : w.map Prod.fst = List.range' 4 (entryNumber n - 4)) (hstates : ∀ x ∈ w, x.2.idx.toNat < 64)
    (h4 : 4 ≤ entryNumber n) (hcap : entryNumber n ≤ s.wheelCapacity) :
    ({ s with bytes := b, cnt := c, wheel := w, wcnt := n } : State).Inv :=
  { hs with
    registers := fun _ => by
      obtain ⟨hstart, hmax, hmod, hmin, hbytes, -, -, hwheel⟩ := hs.registers hc
      exact ⟨hstart, hmax, hmod, hmin, hbytes, h4, hcap, hwheel⟩
    bytes_present := hb.trans hs.bytes_present
    wheel_present := hw.trans (if_pos hc).symm
    wheel_states := hstates
    cnt_wf := hcwf
    counters_present := fun hcnt => by
      obtain ⟨hcntn, hcovers⟩ := hs.counters_present hcnt
      exact ⟨hcntn, covers_of_isSome_eq hcsome hcovers⟩ }

theorem bytes_wf (hs : s.Inv) : Memory.wf s.bytes := by
  have hkeys := hs.bytes_present
  split at hkeys
  · exact ((keys_eq_iff List.pairwise_lt_range).mp hkeys).1
  · exact ((keys_eq_iff List.Pairwise.nil).mp hkeys).1

theorem wheel_keys_iff {w : Store WheelEntry} {n : Nat} :
    w.map Prod.fst = List.range' 4 (n - 4) ↔
      Store.wf w ∧ ∀ a, (Store.read w a).isSome = true ↔ 4 ≤ a ∧ a < n := by
  rw [keys_eq_iff (l := List.range' 4 (n - 4)) List.pairwise_lt_range']
  refine and_congr_right fun _ => forall_congr' fun a => ?_
  rw [List.mem_range'_1]
  refine iff_congr Iff.rfl ?_
  omega

theorem wheel_spec (hs : s.Inv) (hc : s.created = true) :
    Store.wf s.wheel ∧ ∀ a, (Store.read s.wheel a).isSome = true ↔ 4 ≤ a ∧ a < s.wheelCount :=
  wheel_keys_iff.mp (hs.wheel_present.trans (if_pos hc))

theorem crossBody_wf (hb : Memory.wf s.bytes) (hcnt : Store.wf s.cnt) (hw : Store.wf s.wheel) {i p v : Nat}
    {counted : Bool} (h : s.crossBody i p counted = some (u, v)) :
    Memory.wf u.bytes ∧ Store.wf u.cnt ∧ Store.wf u.wheel := by
  obtain ⟨e, -, hbytes, hcnt', -⟩ := crossBody_eq_loopFrom h
  obtain ⟨hbwf, hcwf⟩ := crossLoop_wf (x := startOf s e) hb hcnt s.size.toNat (p / 30) (e.idx.toNat / 8) s.cntn.toNat counted
    (crossFuel s.size.toNat)
  refine ⟨hbytes ▸ hbwf, hcnt' ▸ hcwf, ?_⟩
  obtain ⟨s1, e1, hs1, -, ht⟩ := crossBody_cases h
  obtain ⟨rfl, -⟩ := Prod.mk.inj ht
  refine Store.wf_write ?_ _ _
  rw [hs1]
  split
  · exact Store.wf_write hw _ _
  · exact hw

/-- R131: a body started where its checks hold keeps the invariant. -/
theorem crossBody_inv (hs : s.Inv) (hc : s.created = true) {i p v : Nat} {counted : Bool} (hx : s.crossable i p)
    (h : s.crossBody i p counted = some (u, v)) : u.Inv := by
  obtain ⟨hwwf, hwsome⟩ := wheel_spec hs hc
  obtain ⟨hbwf, hcwf, hwwf'⟩ := crossBody_wf (bytes_wf hs) hs.cnt_wf hwwf h
  obtain ⟨-, -, -, -, -, h4, hcount, -⟩ := hs.registers hc
  have hmax : entryNumber u.wcnt = max s.wheelCount (i + 1) := crossBody_wheelCount_eq_max hx h
  obtain ⟨e, n, hrun⟩ := bodyRun_of_crossBody hx h
  obtain ⟨h4i, hi, hcap, -⟩ := hx
  obtain ⟨e', hown, -, hidx⟩ := hrun.own
  have hother (b : Nat) (hb : b ≠ i) : Store.read u.wheel b = Store.read s.wheel b := crossBody_wheel_other h hb
  have hcsome (a : Nat) : (Store.read u.cnt a).isSome = (Store.read s.cnt a).isSome := by
    rw [hrun.cnt]
    exact (CrossingLoop.read_cnt_iterate _ _ _ _ (startOf s e) n a).1
  rw [crossBody_frame h]
  refine inv_of_cells hs hc (keys_eq_of_isSome_eq (bytes_wf hs) hbwf hrun.read_isSome) hcwf hcsome
    (wheel_keys_iff.mpr ⟨hwwf', fun a => ?_⟩) (fun x hx => ?_) (by omega) (by omega)
  · by_cases ha : a = i
    · subst ha
      simp only [hown, Option.isSome_some, true_iff]
      omega
    · rw [hother a ha, hwsome]
      omega
  · have hread := read_of_mem hwwf' hx
    by_cases ha : x.1 = i
    · rw [ha, hown] at hread
      obtain rfl := Option.some.inj hread
      have hclass := cls_lt (p % 30)
      have hposition : (walk p e n).2 < 8 := by
        rw [WheelWalk.crossAt_snd _ _ _ (Nat.mod_lt _ (by decide))]
        exact Nat.mod_lt _ (by decide)
      have := hrun.class_eq
      omega
    · rw [hother _ ha] at hread
      exact hs.wheel_states _ (mem_of_read hread)

/-! ### CNTUNSET -/

theorem unset_inv (hs : s.Inv) (hc : s.created = true) (k : Nat) : (s.unset k).Inv := by
  obtain ⟨-, -, -, -, -, h4, hcount, -⟩ := hs.registers hc
  exact inv_of_cells hs hc
    (keys_eq_of_isSome_eq (bytes_wf hs) (clear_wf (bytes_wf hs) k) fun a => read_clear_isSome s.bytes k a)
    (updateLoop_wf hs.cnt_wf _ _ _) (fun a => updateLoop_present _ _ _ _ a) (hs.wheel_present.trans (if_pos hc))
    hs.wheel_states h4 hcount

end

/-! ### PRESIEVE -/

/-- `CrossChain i n s t`: the bodies of the indices `i .. i + n - 1` with their table primes, each started where its checks
hold, lead from `s` to `t` (R101 step 7). -/
inductive CrossChain : Nat → Nat → State → State → Prop where
  | nil (i : Nat) (s : State) : CrossChain i 0 s s
  | cons {i n p v : Nat} {s u t : State} : s.cfg.primes[i]? = some p → s.crossable i p →
      s.crossBody i p false = some (u, v) → CrossChain (i + 1) n u t → CrossChain i (n + 1) s t

/-- The checks that the bodies of `i .. i + n - 1` will make hold: each index is present or will have been made. -/
def Chainable (s : State) (i n : Nat) : Prop :=
  4 ≤ i ∧ i ≤ s.wheelCount ∧ ∀ j, i ≤ j → j < i + n → j < s.wheelCapacity ∧
    ∃ p, s.cfg.primes[j]? = some p ∧ 7 ≤ p ∧ p < 2 ^ 32 ∧ p % 30 ∈ W ∧
      ∀ e, j < s.wheelCount → Store.read s.wheel j = some e → e.idx.toNat / 8 = cls (p % 30)

section
variable {s t u : State} {i n : Nat}

theorem Chainable.first (h : Chainable s i (n + 1)) : ∃ p, s.cfg.primes[i]? = some p ∧ s.crossable i p := by
  obtain ⟨h4, hcount, hall⟩ := h
  obtain ⟨hcap, p, hp, hchecks⟩ := hall i le_rfl (by omega)
  exact ⟨p, hp, h4, hcount, hcap, hchecks⟩

/-- A body makes or keeps its own entry and leaves the later ones alone. -/
theorem Chainable.next {p v : Nat} (h : Chainable s i (n + 1)) (hx : s.crossable i p)
    (hbody : s.crossBody i p false = some (u, v)) : Chainable u (i + 1) n := by
  obtain ⟨h4, hcount, hall⟩ := h
  have hmax := crossBody_wheelCount_eq_max hx hbody
  have hcfg : u.cfg = s.cfg := by rw [crossBody_frame hbody]
  have hcapacity : u.wheelCapacity = s.wheelCapacity := by rw [crossBody_frame hbody]; rfl
  refine ⟨by omega, by omega, fun j hij hj => ?_⟩
  obtain ⟨hcap, p', hp', h7, hlt, hW, hclass⟩ := hall j (by omega) (by omega)
  refine ⟨hcapacity ▸ hcap, p', hcfg ▸ hp', h7, hlt, hW, fun e hje he => hclass e (by omega) ?_⟩
  rwa [crossBody_wheel_other hbody (by omega)] at he

theorem crossChain_of_crossAll (h : Chainable s i n) (hall : State.crossAll (List.range' i n) s = some t) :
    CrossChain i n s t := by
  induction n generalizing i s with
  | zero =>
    obtain rfl : s = t := Option.some.inj hall
    exact .nil i s
  | succ n ih =>
    obtain ⟨p, hp, hx⟩ := h.first
    rw [List.range'_succ] at hall
    simp only [State.crossAll, hp] at hall
    split at hall
    · cases hall
    · next r hbody => exact .cons hp hx hbody (ih (h.next hx hbody) hall)

theorem CrossChain.inv (h : CrossChain i n s t) (hs : s.Inv) (hc : s.created = true) : t.Inv := by
  induction h with
  | nil => exact hs
  | cons hp hx hbody _ ih =>
    refine ih (crossBody_inv hs hc hx hbody) ?_
    rw [crossBody_frame hbody]
    exact hc

/-- Checks 6 and 7 of R100 are those of the bodies to come. -/
theorem chainable_openSegment {c low high : Nat} (hs : s.Inv) (hc : s.created = true) (h : s.presievable c low high) :
    Chainable (s.openSegment low high) 4 (c + 1 - 4) := by
  obtain ⟨-, -, -, -, -, hindex, hfits⟩ := h
  obtain ⟨-, -, -, -, -, h4, -⟩ := hs.registers hc
  refine ⟨le_rfl, h4, fun j hj4 hj => ?_⟩
  obtain ⟨hlen, hcap⟩ := hindex (by omega)
  have hp : s.cfg.primes[j]? = some (s.cfg.primes[j]'(show j < s.cfg.primesLen by omega)) :=
    List.getElem?_eq_getElem _
  exact ⟨(show j ≤ c by omega).trans_lt hcap, _, hp, hfits j _ hj4 (by omega) hp⟩

/-! ### Opening the segment -/

theorem read_maskTail_isSome (m : Memory) (size d a : Nat) :
    (Store.read (maskTail m size d) a).isSome = (Store.read m a).isSome := by
  rw [TailMask.maskTail_eq_maskOver]
  exact TailMask.read_maskOver_isSome _ _ _ _

/-- R101 steps 1 to 4: exactly the bytes of the new segment hold values. -/
theorem openSegment_keys (hs : s.Inv) {low high : Nat} (hle : presieveSize (high - low) ≤ s.size.toNat) :
    (s.openSegment low high).bytes.map Prod.fst = List.range (presieveSize (high - low)) := by
  rw [State.openSegment_bytes, keys_eq_iff List.pairwise_lt_range]
  refine ⟨maskTail_wf (Store.wf_truncate (fillBytes_wf (bytes_wf hs) _) _) _ _, fun a => ?_⟩
  rw [read_maskTail_isSome, Store.read_truncate, fillBytes, Store.read_overwrite, List.mem_range]
  by_cases ha : a < presieveSize (high - low)
  · simp [ha, ha.trans_le hle]
  · simp [ha]

theorem openSegment_inv (hs : s.Inv) (hc : s.created = true) {c low high : Nat} (h : s.presievable c low high) :
    (s.openSegment low high).Inv := by
  obtain ⟨hmod, hlt, hmax, hcover, -⟩ := h
  obtain ⟨hsize, hle⟩ := toNat_openSegment_size hs hc hcover
  have hstart : (s.openSegment low high).start.toNat = low := by
    rw [State.openSegment_start, BitVec.toNat_ofNat, Nat.mod_eq_of_lt (by omega)]
  have hfull := le_presieveSize (high - low)
  have hmod8 := presieveSize_mod_eight (high - low)
  exact
    { hs with
      sieve_created := fun _ => hc
      primed_sieve := rfl
      cnt_sieve := nofun
      registers := fun _ => by
        obtain ⟨-, -, -, -, hbytes, hwheel⟩ := hs.registers hc
        rw [hstart, hsize]
        exact ⟨hmod, by omega, hmod8, by omega, hle.trans hbytes, hwheel⟩
      bytes_present := by
        rw [hsize]
        exact openSegment_keys hs hle
      counters_present := nofun }

/-! ### Effects and steps -/

theorem effect_inv {instr : Instr} {v : Nat} (hs : s.Inv) (h : Effect s instr u v) : u.Inv := by
  cases h with
  | new haccepts => exact newSieve_inv hs haccepts
  | segsz _ => exact hs
  | count _ _ _ => exact hs
  | presieve hc hp hcross =>
    exact (crossChain_of_crossAll (chainable_openSegment hs hc hp) hcross).inv (openSegment_inv hs hc hp) hc
  | crossoff hc _ hx hbody => exact invalidateCounters_inv (crossBody_inv hs hc hx hbody)
  | cntfinit _ hv => exact initCounters_inv hs hv
  | unset hc _ _ _ _ => exact unset_inv hs hc _
  | leaveDead _ _ _ _ _ => exact hs
  | cntquery _ _ _ => exact hs
  | crossoffc hc _ _ hx hbody => exact crossBody_inv hs hc hx hbody

theorem exec_inv {instr : Instr} (hs : s.Inv) (h : exec instr s = .next t) : t.Inv := by
  cases ran_of_exec h with
  | sticky _ => exact stickyAnswer_inv hs
  | faulted c _ _ => exact raiseFault_inv hs c
  | completed _ heff => exact respond_inv (effect_inv hs heff) _

theorem step_inv (hs : s.Inv) (h : step s = .next t) : t.Inv := by
  rcases step_of_fetch hs.cfg_wf with ⟨-, hstep⟩ | ⟨rest, -, hstep⟩ | ⟨w, rest, instr, -, -, hstep⟩ |
    ⟨w, rest, e, -, -, hstep⟩
  · cases hstep.symm.trans h
    exact hs
  · cases hstep.symm.trans h
    exact applyReset_inv (inv_of_inbox hs rest)
  · exact exec_inv (inv_of_inbox hs rest) (hstep.symm.trans h)
  · cases hstep.symm.trans h
    exact answerIllegal_inv (inv_of_inbox hs rest)

end

/-- Settles O53: a step is idle, a reset, an answer to an illegal word, or a command that faults or has an effect. -/
theorem stepKeepsTheInvariant : Obligations.StepKeepsTheInvariant := fun _ _ => step_inv

/-- Settles O54: no flag is set, so nothing is claimed of registers and memories. -/
theorem resetMeetsTheInvariant : Obligations.ResetMeetsTheInvariant :=
  ⟨fun _ hcfg => ⟨afterReset_inv hcfg, nofun⟩, afterReset_inv (by decide)⟩

/-! ### Queues of commands -/

theorem run_succ_of_next {M : Host.Core} {n : Nat} {s u : M.State} (h : M.step s = .next u) :
    M.run (n + 1) s = M.run n u := by
  rw [Host.Core.run, h]

/-- `n` queued words are answered by `n` steps. -/
theorem run_answers_all (ws : List CommandWord) {s : State} (hs : s.Inv) (hin : s.inbox = ws.map HostInput.command) :
    ∃ t : State, Host.Core.run core ws.length s = .next t ∧ t.Inv ∧ t.inbox = [] ∧ t.cidx = s.cidx + ws.length ∧
      ∃ rs, t.responses = s.responses ++ rs ∧ rs.length = ws.length := by
  induction ws generalizing s with
  | nil => exact ⟨s, rfl, hs, hin, rfl, [], by simp, rfl⟩
  | cons w ws ih =>
    obtain ⟨u, r, hstep, hresponses, hcidx, hrest⟩ := everyWordIsAnsweredOnce s w _ hs hin
    obtain ⟨t, hrun, ht, hempty, hcount, rs, hrs, hlen⟩ := ih (step_inv hs hstep) hrest
    have hfirst : core.step s = .next u := hstep
    refine ⟨t, (run_succ_of_next hfirst).trans hrun, ht, hempty, ?_, r :: rs, ?_, by simp [hlen]⟩
    · rw [hcount, hcidx, List.length_cons]
      omega
    · rw [hrs, hresponses, List.append_assoc, List.singleton_append]

/-- Settles O11: by induction on the queue; a step answers one word and keeps the invariant. -/
theorem queuedCommandsAreAllAnswered : Obligations.QueuedCommandsAreAllAnswered :=
  fun _ ws hs hin => run_answers_all ws hs hin

end Sys2Proof.Invariant
end

section
/-! Proofs for 40_sieve30_basic.md R96 to R98 and 42_fenwick_counters.md R152 to R160: COUNT and the counter commands where
their checks hold. A consistent tree counts live bits; each command that keeps `CNT_VALID` keeps the tree consistent. -/

namespace Sys2Proof.Counters

open Sys2Proof Sys2Proof.Machine Sys2Proof.Commands Sys2Proof.Responses Sys2Proof.Positions Sys2Proof.CounterTree
open Sys2Proof.CrossingLoop Sys2Proof.CrossingBody Sys2Proof.Effects Sys2Proof.Invariant

section
variable {s t u : State}

/-! ### COUNT -/

theorem countLive_of_empty (m : Memory) (size : Nat) {first last : Nat} (h : last < first) :
    countLive m size first last = 0 := by
  rw [countLive_eq_card, Finset.card_eq_zero, Finset.filter_eq_empty_iff]
  rintro pos - ⟨-, hfirst, hlast⟩
  omega

theorem countLive_le (m : Memory) (size first last : Nat) : countLive m size first last ≤ 8 * size := by
  rw [countLive_eq_card]
  exact (Finset.card_filter_le _ _).trans_eq (Finset.card_range _)

/-- R96: where its checks hold, COUNT answers the count, which is 0 for an empty interval. -/
theorem execCount_completes (hs : s.Inv) (hf : s.fault = false) (hv : s.sieveValid = true) {a b : Word64}
    (h : b.toNat < a.toNat ∨ b.toNat < 30 * s.size.toNat) :
    exec (.count a b) s = .next (s.afterResult (countLive s.bytes s.size.toNat a.toNat b.toNat)) := by
  have hholds := (countChecks_hold_iff (s := s) a.toNat b.toNat).mpr ⟨hv, h⟩
  rw [exec_count, execCount,
    runCommand_of_holding hf (fun _ => hs.sieve_created hv) ((firstFailing_eq_none _).mpr hholds)]
  by_cases hempty : b.toNat < a.toNat
  · rw [if_pos hempty, countLive_of_empty _ _ hempty, State.respond_eq]
  · rw [if_neg hempty, State.respond_eq, whenReadable_eq_next]
    exact ⟨sieveReadable_of_inv hs hv, rfl⟩

end

/-- Settles O24: the positions COUNT looks at are those of the segment. -/
theorem countAnswersLiveInRange : Obligations.CountAnswersLiveInRange := by
  intro a b s hs hf hv h
  have hle := countLive_le s.bytes s.size.toNat a.toNat b.toNat
  have hsize := s.size.isLt
  exact ⟨_, execCount_completes hs hf hv h, by omega, countLive_eq_card _ _ _ _, countLive_of_empty _ _⟩

/-- Settles O25: the intervals are adjacent ranges of positions. -/
theorem countIsAdditive : Obligations.CountIsAdditive := by
  intro a b c s hs hf hv hab hbc hc
  have hnext : (b + 1).toNat = b.toNat + 1 := by
    have hone : (1 : Word64).toNat = 1 := rfl
    have hlt := c.isLt
    rw [BitVec.toNat_add, hone, Nat.mod_eq_of_lt (by omega)]
  have hsum : countLive s.bytes s.size.toNat a.toNat b.toNat + countLive s.bytes s.size.toNat (b + 1).toNat c.toNat =
      countLive s.bytes s.size.toNat a.toNat c.toNat := by
    rw [hnext, countLive_eq_sum _ (by omega), countLive_eq_sum _ hc, countLive_eq_sum _ hc]
    exact Finset.sum_Ico_consecutive _ (below_mono (by omega)) (below_mono (by omega))
  have hle := countLive_le s.bytes s.size.toNat a.toNat c.toNat
  have hsize := s.size.isLt
  refine ⟨_, _, execCount_completes hs hf hv (.inr (by omega)), execCount_completes hs hf hv (.inr hc), ?_, ?_⟩
  · rw [hsum]
    exact execCount_completes hs hf hv (.inr hc)
  · omega

/-! ### CNTFINIT -/

theorem initCounters_tree (s : State) : s.initCounters.treeConsistent := by
  have hsize := s.size.isLt
  rw [treeConsistent_iff, State.initCounters_cntn, toNat_eight_mul_size]
  exact treeOf_overwrite s.bytes s.cnt (by omega)

/-- Settles O45: each counter is written with the count of its range. -/
theorem cntfinitBuildsTheTree : Obligations.CntfinitBuildsTheTree := by
  intro s hs hf hv
  have hexec : exec .cntfinit s = .next (s.initCounters.respond 0) := by
    rw [exec_cntfinit, execCntfinit, runCommand_of_holding hf (fun _ => hs.sieve_created hv) (by simp [firstFailing, hv]),
      whenReadable_eq_next]
    exact ⟨sieveReadable_of_inv hs hv, rfl⟩
  refine ⟨_, hexec, toNat_eight_mul_size s.size, initCounters_tree s, fun j hj => ?_, rfl⟩
  rw [State.respond_cnt, State.initCounters_cnt, Store.read_overwrite, if_neg (Nat.not_lt.mpr hj)]

/-! ### CNTUNSET -/

section
variable {s : State}

/-- R155: where its checks hold, CNTUNSET clears and updates for a live bit, and does nothing for a dead one. -/
theorem execCntunset_completes (hs : s.Inv) (hf : s.fault = false) (hcnt : s.cntValid = true) {k : Word64}
    (hk : k.toNat < s.cntn.toNat) :
    exec (.cntunset k) s =
      .next (if live s.bytes k.toNat then (s.unset k.toNat).respond 1 else s.respond 0) := by
  have hv := hs.cnt_sieve hcnt
  obtain ⟨hcntn, -⟩ := hs.counters_present hcnt
  rw [exec_cntunset, execCntunset,
    runCommand_of_holding hf (fun _ => hs.sieve_created hv) (by simp [firstFailing, hv, hcnt, hk]), whenReadable_eq_next]
  exact ⟨Bool.and_eq_true_iff.mpr ⟨sieveByte_present hs hv (by omega), countersReadable_of_inv hs hcnt⟩, rfl⟩

theorem unset_tree {k : Nat} (hlive : live s.bytes k = true) (htree : s.treeConsistent) : (s.unset k).treeConsistent :=
  treeOf_clear_update htree hlive

end

/-- Settles O47: `clear` kills one bit, `update` decrements the counters that counted it. -/
theorem cntunsetClearsAndDecrements : Obligations.CntunsetClearsAndDecrements := by
  intro k s hs hf hcnt hk
  have hexec := execCntunset_completes hs hf hcnt hk
  refine ⟨fun hlive => ?_, fun hdead => ?_⟩
  · rw [if_pos hlive] at hexec
    refine ⟨_, hexec, fun q => ?_, fun a ha => read_clear_other _ ha, fun j => read_update _ _ _ j,
      fun htree => unset_tree hlive htree, rfl⟩
    simp [live_clear]
  · rw [if_neg (by simp [hdead])] at hexec
    exact hexec

/-! ### CNTQUERY -/

section
variable {s : State}

/-- R157: where its checks hold, CNTQUERY answers the live positions up to `k`. -/
theorem execCntquery_completes (hs : s.Inv) (hf : s.fault = false) (hcnt : s.cntValid = true) (htree : s.treeConsistent)
    {k : Word64} (hk : k.toNat < s.cntn.toNat) :
    exec (.cntquery k) s = .next (s.afterResult (liveIn s.bytes (Finset.range (k.toNat + 1)))) := by
  rw [exec_cntquery, execCntquery,
    runCommand_of_holding hf (fun _ => hs.sieve_created (hs.cnt_sieve hcnt)) (by simp [firstFailing, hcnt, hk]),
    whenReadable_eq_next, query_eq htree hk]
  exact ⟨countersReadable_of_inv hs hcnt, rfl⟩

/-- R157: the offsets up to that of position `k` are those of the positions up to `k`. -/
theorem countLive_upTo (m : Memory) {size k : Nat} (hk : k < 8 * size) :
    countLive m size 0 (offOf k) = liveIn m (Finset.range (k + 1)) := by
  have hbelow : below (offOf k + 1) = k + 1 := by rw [below_succ, below_offOf, if_pos (represented_offOf k)]
  rw [countLive_eq_card, liveIn]
  congr 1
  ext pos
  simp only [Finset.mem_filter, Finset.mem_range, ← Nat.lt_add_one_iff (m := offOf pos), offOf_lt_iff, hbelow]
  constructor
  · rintro ⟨-, hlive, -, hpos⟩
    exact ⟨hpos, hlive⟩
  · rintro ⟨hpos, hlive⟩
    exact ⟨by omega, hlive, Nat.zero_le _, hpos⟩

end

/-- Settles O48: the ranges of the counters read follow one another down to 0. -/
theorem cntqueryAnswersThePrefixCount : Obligations.CntqueryAnswersThePrefixCount :=
  fun _ _ hs hf hcnt htree hk => execCntquery_completes hs hf hcnt htree hk

/-- Settles O49: both count the live positions up to `k`. -/
theorem cntqueryEqualsCount : Obligations.CntqueryEqualsCount := by
  intro k s hs hconsistent hf hcnt hk
  obtain ⟨hcntn, -⟩ := hs.counters_present hcnt
  have hsize := s.size.isLt
  have hinside : k.toNat < 8 * s.size.toNat := by omega
  have hoff : offOf k.toNat < 30 * s.size.toNat := by rwa [offOf_lt_iff, below_mul_thirty]
  have hoperand : (BitVec.ofNat 64 (offOf k.toNat)).toNat = offOf k.toNat := by
    rw [BitVec.toNat_ofNat, Nat.mod_eq_of_lt (by omega)]
  have hzero : (0 : Word64).toNat = 0 := rfl
  refine ⟨_, execCntquery_completes hs hf hcnt (hconsistent hcnt) hk, ?_⟩
  rw [execCount_completes hs hf (hs.cnt_sieve hcnt) (.inr (by rwa [hoperand])), hoperand, hzero,
    countLive_upTo _ hinside]

/-! ### CROSSOFFC -/

section
variable {s t u : State}

/-- R159: where its checks hold, CROSSOFFC runs its counted body. -/
theorem crossoffc_completes (hs : s.Inv) (hf : s.fault = false) (hcnt : s.cntValid = true) {i p : Word64}
    (hx : s.crossable i.toNat p.toNat) :
    ∃ t v, s.crossBody i.toNat p.toNat true = some (t, v) ∧ exec (.crossoffc i p) s = .next (t.respond v) := by
  have hv := hs.cnt_sieve hcnt
  have hc := hs.sieve_created hv
  have hchecks := (crossingChecks_hold_iff i.toNat p.toNat).mpr hx
  obtain ⟨t, v, hbody, -⟩ := crossBody_of_checks hs hc true hchecks
  have hholds : ∀ x ∈ (s.sieveValid && s.cntValid, .state) :: s.crossingChecks i.toNat p.toNat, x.1 = true :=
    List.forall_mem_cons.mpr ⟨Bool.and_eq_true_iff.mpr ⟨hv, hcnt⟩, hchecks⟩
  refine ⟨t, v, hbody, ?_⟩
  rw [exec_crossoffc, execCrossoffc, runCommand_of_holding hf (fun _ => hc) ((firstFailing_eq_none _).mpr hholds)]
  simp only [hbody, whenReadable_eq_next, sieveReadable_of_inv hs hv, countersReadable_of_inv hs hcnt, Bool.and_self,
    and_self]

/-- A counted body leaves what an uncounted one does, but for the counters. -/
theorem crossBody_counted_eq {i p v w : Nat} (ht : s.crossBody i p true = some (t, v))
    (hu : s.crossBody i p false = some (u, w)) : t = { u with cnt := t.cnt } ∧ v = w := by
  obtain ⟨s1, e, hs1, hread, ht⟩ := crossBody_cases ht
  obtain ⟨s2, e', hs2, hread', hu⟩ := crossBody_cases hu
  obtain rfl : s1 = s2 := hs1.trans hs2.symm
  obtain rfl : e = e' := Option.some.inj (hread.symm.trans hread')
  obtain ⟨rfl, rfl⟩ := Prod.mk.inj ht
  obtain ⟨rfl, rfl⟩ := Prod.mk.inj hu
  have hstart : SameButCounters (startOf s1 e) (startOf s1 e) := ⟨rfl, rfl, rfl, rfl⟩
  have hsame : SameButCounters (loopFrom s1 p true e) (loopFrom s1 p false e) := hstart.crossLoop _
  unfold loopFrom startOf at hsame
  refine ⟨?_, hsame.total⟩
  simp only [hsame.bytes, hsame.m, hsame.j]

theorem crossBody_tree {i p v : Nat} (hx : s.crossable i p) (h : s.crossBody i p true = some (t, v))
    (htree : s.treeConsistent) : t.treeConsistent := by
  obtain ⟨e, n, hrun⟩ := bodyRun_of_crossBody hx h
  have hcntn : t.cntn = s.cntn := by rw [crossBody_frame h]
  rw [treeConsistent_iff, hcntn, hrun.bytes, hrun.cnt]
  exact treeOf_iterate _ _ _ (x := startOf s e) htree n

/-- Each query falls by the bits that died at positions up to it. -/
theorem query_add_died {k : Nat} (hs : s.treeConsistent) (ht : t.treeConsistent) (hcntn : t.cntn = s.cntn)
    (hdie : ∀ pos, live t.bytes pos = true → live s.bytes pos = true) (hk : k < s.cntn.toNat) :
    query t.cnt k + died s.bytes t.bytes (k + 1) = query s.cnt k := by
  rw [query_eq hs hk, query_eq ht (hcntn ▸ hk), liveIn_add_died hdie]

end

/-- Settles O51: the counted body differs in the counters alone, and its updates keep each counter true. -/
theorem crossoffcIsCrossoffWithCounters : Obligations.CrossoffcIsCrossoffWithCounters := by
  intro i p s hs hf hcnt hx
  obtain ⟨t, v, hbodyt, hexect⟩ := crossoffc_completes hs hf hcnt hx
  obtain ⟨u, w, hbodyu, hexecu⟩ := crossoff_completes hs hf (hs.cnt_sieve hcnt) hx
  obtain ⟨hsame, rfl⟩ := crossBody_counted_eq hbodyt hbodyu
  obtain ⟨e, n, hrun⟩ := bodyRun_of_crossBody hx hbodyt
  have hcntn : t.cntn = s.cntn := by rw [crossBody_frame hbodyt]
  have hvalid : t.cntValid = true := by rw [crossBody_frame hbodyt]; exact hcnt
  have hvalid' : u.cntValid = true := by rwa [hsame] at hvalid
  refine ⟨_, _, hexect, hexecu, ?_, fun j hj => ?_, fun htree => ?_⟩
  · conv_lhs => rw [hsame]
    simp [State.respond, State.answer, State.invalidateCounters, hvalid']
  · rw [State.respond_cnt, hrun.cnt]
    exact (read_cnt_iterate _ _ _ _ (startOf s e) n j).2 hj
  · have htree' := crossBody_tree hx hbodyt htree
    exact ⟨htree', fun k hk => query_add_died htree htree' hcntn hrun.bits_only_die hk⟩

/-! ### Rules of the whole machine -/

section
variable {s t u : State} {i : Instr}

theorem effect_tree {v : Nat} (hs : s.countersConsistent) (h : Effect s i u v) : u.countersConsistent := by
  cases h with
  | new _ => exact nofun
  | segsz _ => exact hs
  | count _ _ _ => exact hs
  | presieve _ _ hcross =>
    rw [crossAll_frame hcross]
    exact nofun
  | crossoff _ _ _ _ => exact nofun
  | cntfinit _ _ => exact fun _ => initCounters_tree s
  | unset _ _ hcnt _ hlive => exact fun _ => unset_tree hlive (hs hcnt)
  | leaveDead _ _ _ _ _ => exact hs
  | cntquery _ _ _ => exact hs
  | crossoffc _ _ hcnt hx hbody => exact fun _ => crossBody_tree hx hbody (hs hcnt)

theorem exec_tree (hs : s.countersConsistent) (h : exec i s = .next t) : t.countersConsistent := by
  cases ran_of_exec h with
  | sticky _ => exact hs
  | faulted _ _ _ => exact hs
  | completed _ heff =>
    have htree := effect_tree hs heff
    exact htree

theorem crossBody_bits {i p v : Nat} {counted : Bool} (hx : s.crossable i p)
    (h : s.crossBody i p counted = some (u, v)) :
    u.size = s.size ∧ u.start = s.start ∧ ∀ pos, live u.bytes pos = true → live s.bytes pos = true := by
  obtain ⟨e, n, hrun⟩ := bodyRun_of_crossBody hx h
  exact ⟨by rw [crossBody_frame h], by rw [crossBody_frame h], hrun.bits_only_die⟩

/-- R27: no effect but those of NEW and PRESIEVE moves the segment or revives a bit. -/
theorem effect_bits {v : Nat} (hnew : ∀ a b c, i ≠ .new a b c) (hpresieve : ∀ a b c, i ≠ .presieve a b c)
    (h : Effect s i u v) :
    u.size = s.size ∧ u.start = s.start ∧ ∀ pos, live u.bytes pos = true → live s.bytes pos = true := by
  cases h with
  | new _ => exact absurd rfl (hnew _ _ _)
  | segsz _ => exact ⟨rfl, rfl, fun _ => id⟩
  | count _ _ _ => exact ⟨rfl, rfl, fun _ => id⟩
  | presieve _ _ _ => exact absurd rfl (hpresieve _ _ _)
  | crossoff _ _ hx hbody =>
    have hbits := crossBody_bits hx hbody
    exact hbits
  | cntfinit _ _ => exact ⟨rfl, rfl, fun _ => id⟩
  | unset _ _ _ _ _ =>
    refine ⟨rfl, rfl, fun pos hpos => ?_⟩
    rw [State.unset_bytes, live_clear, Bool.and_eq_true] at hpos
    exact hpos.1
  | leaveDead _ _ _ _ _ => exact ⟨rfl, rfl, fun _ => id⟩
  | cntquery _ _ _ => exact ⟨rfl, rfl, fun _ => id⟩
  | crossoffc _ _ _ hx hbody => exact crossBody_bits hx hbody

end

/-- Settles O55: effects that leave `CNT_VALID` set keep the tree consistent; faults and reset touch neither. -/
theorem stepKeepsCountersConsistent : Obligations.StepKeepsCountersConsistent := by
  intro s t hs htree h
  rcases step_of_fetch hs.cfg_wf with ⟨-, hstep⟩ | ⟨rest, -, hstep⟩ | ⟨w, rest, i, -, -, hstep⟩ |
    ⟨w, rest, e, -, -, hstep⟩
  · cases hstep.symm.trans h
    exact htree
  · cases hstep.symm.trans h
    exact nofun
  · exact exec_tree (s := { s with inbox := rest }) htree (hstep.symm.trans h)
  · cases hstep.symm.trans h
    rcases answerIllegal_cases { s with inbox := rest } with ⟨-, heq⟩ | ⟨-, heq⟩ <;> rw [heq] <;> exact htree

/-- Settles O57: by the effects; answers and faults touch no bit. -/
theorem bitsOnlyDieBetweenPresieves : Obligations.BitsOnlyDieBetweenPresieves := by
  intro i s t h hnew hpresieve
  cases ran_of_exec h with
  | sticky _ => exact ⟨rfl, rfl, fun _ => id⟩
  | faulted _ _ _ => exact ⟨rfl, rfl, fun _ => id⟩
  | completed _ heff =>
    have hbits := effect_bits hnew hpresieve heff
    exact hbits

end Sys2Proof.Counters
end

section
/-! Proofs for 40_sieve30_basic.md R101 to R106: PRESIEVE opens the segment with every integer of `[low, high)` live, and then
runs a chain of crossing bodies. What a chain does is said for one body and carried along it. -/

namespace Sys2Proof.Presieve

open Sys2Proof Sys2Proof.Machine Sys2Proof.Commands Sys2Proof.Responses Sys2Proof.Positions Sys2Proof.SegmentSize
open Sys2Proof.WheelTables Sys2Proof.CrossingBody Sys2Proof.Effects Sys2Proof.Invariant Sys2Proof.Cells

/-! ### The opened segment -/

section
variable {s : State} {low high : Nat}

theorem live_truncate (m : Memory) {n pos : Nat} (hpos : pos < 8 * n) : live (Store.truncate m n) pos = live m pos := by
  simp only [live, Store.read_truncate, if_pos (show pos / 8 < n by omega)]

/-- R101 steps 1 to 4: in the new segment exactly the positions below `high` are live. -/
theorem live_openSegment (hle : presieveSize (high - low) ≤ s.size.toNat) {pos : Nat}
    (hpos : pos < 8 * presieveSize (high - low)) :
    live (s.openSegment low high).bytes pos = decide (offOf pos < high - low) := by
  rw [State.openSegment_bytes, TailMask.live_maskTail _ hpos, live_truncate _ hpos,
    TailMask.live_fillBytes _ (by omega), Bool.true_and]

theorem openSegment_start_toNat (h : low < 2 ^ 64) : (s.openSegment low high).start.toNat = low := by
  rw [State.openSegment_start, BitVec.toNat_ofNat, Nat.mod_eq_of_lt h]

/-- A live position lies in a byte that holds a value. -/
theorem isSome_of_live {m : Memory} {pos : Nat} (h : live m pos = true) : (Store.read m (pos / 8)).isSome = true := by
  unfold live at h
  split at h
  · next hread => rw [hread, Option.isSome_some]
  · cases h

/-- Checks 1 to 5 of R100 do not look at `c`; checks 6 and 7 hold for less than 4, and for less than a `c` they hold for. -/
theorem presievable_of_presievable {c c' : Nat} (h : s.presievable c low high) (hc : c' < 4 ∨ c' ≤ c) :
    s.presievable c' low high := by
  obtain ⟨hmod, hlt, hmax, hcover, hlow, hindex, hfits⟩ := h
  refine ⟨hmod, hlt, hmax, hcover, hlow, fun h4 => ?_, fun i p h4 hi => hfits i p h4 (by omega)⟩
  obtain ⟨hlen, hcap⟩ := hindex (by omega)
  exact ⟨by omega, by omega⟩

end

section
variable {s : State} {c low high : Word64}

/-- R100, R101: where its checks hold, PRESIEVE runs its chain. -/
theorem presieve_completes (hs : s.Inv) (hf : s.fault = false) (hc : s.created = true)
    (h : s.presievable c.toNat low.toNat high.toNat) :
    ∃ u, CrossChain 4 (c.toNat + 1 - 4) (s.openSegment low.toNat high.toNat) u ∧
      exec (.presieve c low high) s = .next (u.respond 0) := by
  have hholds := (presieveChecks_hold_iff c.toNat low.toNat high.toNat).mpr h
  obtain ⟨-, -, -, -, -, h4, -⟩ := hs.registers hc
  have hpresent : WheelPresent s := wheelPresent_of_inv hs hc
  have hindex := presieve_indices hholds
  obtain ⟨u, hu⟩ := crossAll_isSome (s := s.openSegment low.toNat high.toNat) (n := c.toNat + 1 - 4) hpresent le_rfl h4
    hindex
  refine ⟨u, crossChain_of_crossAll (chainable_openSegment hs hc h) hu, ?_⟩
  rw [exec_presieve, execPresieve, runCommand_of_holding hf (fun _ => hc) ((firstFailing_eq_none _).mpr hholds),
    sievingIndices, hu]

/-- For `c < 4` the chain is empty. -/
theorem presieve_completes_of_lt (hs : s.Inv) (hf : s.fault = false) (hc : s.created = true)
    (h : s.presievable c.toNat low.toNat high.toNat) (hlt : c.toNat < 4) :
    exec (.presieve c low high) s = .next ((s.openSegment low.toNat high.toNat).respond 0) := by
  obtain ⟨u, hchain, hexec⟩ := presieve_completes hs hf hc h
  rw [show c.toNat + 1 - 4 = 0 by omega] at hchain
  cases hchain
  exact hexec

/-- R101 step 3: the new size and that it is within the old segment. -/
theorem presievable_size (hs : s.Inv) (hc : s.created = true) (h : s.presievable c.toNat low.toNat high.toNat) :
    (s.openSegment low.toNat high.toNat).size.toNat = presieveSize (high.toNat - low.toNat) ∧
      presieveSize (high.toNat - low.toNat) ≤ s.size.toNat := by
  obtain ⟨-, -, -, hcover, -⟩ := h
  exact toNat_openSegment_size hs hc hcover

end

/-! ### Chains -/

section
variable {s t u : State} {i n : Nat}

theorem chain_frame (h : CrossChain i n s t) : t = { s with bytes := t.bytes, wheel := t.wheel, wcnt := t.wcnt } := by
  induction h with
  | nil => rfl
  | cons _ _ hbody _ ih =>
    rw [ih]
    conv_lhs => rw [crossBody_uncounted_frame hbody]

theorem chain_bits_only_die (h : CrossChain i n s t) (pos : Nat) (hpos : live t.bytes pos = true) :
    live s.bytes pos = true := by
  induction h with
  | nil => exact hpos
  | cons _ hx hbody _ ih =>
    obtain ⟨e, k, hrun⟩ := bodyRun_of_crossBody hx hbody
    exact hrun.bits_only_die pos (ih hpos)

/-- A chain leaves the entries it does not cross alone. -/
theorem chain_wheel_other (h : CrossChain i n s t) {b : Nat} (hb : b < i ∨ i + n ≤ b) :
    Store.read t.wheel b = Store.read s.wheel b := by
  induction h with
  | nil => rfl
  | cons _ _ hbody _ ih => rw [ih (by omega), crossBody_wheel_other hbody (by omega)]

/-- `WCNT` after a chain. -/
theorem chain_wheelCount (h : CrossChain i n s t) :
    t.wheelCount = if n = 0 then s.wheelCount else max s.wheelCount (i + n) := by
  induction h with
  | nil => rfl
  | cons _ hx hbody _ ih =>
    rw [ih, crossBody_wheelCount_eq_max hx hbody]
    split <;> split <;> omega

/-- R28, R134 along a chain: where the present entries track their primes, the multiples of every prime die, and every entry
then tracks its prime from the end of the segment on. -/
theorem chain_sieves (h : CrossChain i n s t) (hstart : s.start.toNat % 30 = 0)
    (htracks : ∀ j e, i ≤ j → j < i + n → Store.read s.wheel j = some e →
      ∃ p, s.cfg.primes[j]? = some p ∧ tracks s.start.toNat e p) :
    (∀ pos, pos < 8 * s.size.toNat → (live t.bytes pos = true ↔ live s.bytes pos = true ∧
      ∀ j p, i ≤ j → j < i + n → s.cfg.primes[j]? = some p → ¬ p ∣ s.integerAt pos)) ∧
    ∀ j, i ≤ j → j < i + n → ∃ e p, Store.read t.wheel j = some e ∧ s.cfg.primes[j]? = some p ∧
      tracks (s.start.toNat + 30 * s.size.toNat) e p := by
  induction h with
  | nil => exact ⟨fun pos _ => ⟨fun h => ⟨h, fun j p hij hj => by omega⟩, fun h => h.1⟩, fun j hij hj => by omega⟩
  | @cons i n p v s u t hp hx hbody hchain ih =>
    have hstored : ∀ e, i < s.wheelCount → Store.read s.wheel i = some e → tracks s.start.toNat e p := fun e _ he => by
      obtain ⟨p', hp', hentry⟩ := htracks i e le_rfl (by omega) he
      obtain rfl : p = p' := Option.some.inj (hp.symm.trans hp')
      exact hentry
    obtain ⟨e, k, hrun⟩ := bodyRun_of_crossBody hx hbody
    have hentry := tracks_of_entryAt hx hstart hstored hrun.entry
    have hframe := crossBody_frame hbody
    have hustart : u.start = s.start := by rw [hframe]
    have husize : u.size = s.size := by rw [hframe]
    have hucfg : u.cfg = s.cfg := by rw [hframe]
    have huinteger (pos : Nat) : u.integerAt pos = s.integerAt pos := by rw [State.integerAt, State.integerAt, hustart]
    simp only [hustart, husize, hucfg, huinteger] at ih
    obtain ⟨hlive, hnext⟩ := ih hstart fun j e hij hj he => by
      rw [crossBody_wheel_other hbody (by omega)] at he
      exact htracks j e (by omega) (by omega) he
    refine ⟨fun pos hpos => ?_, fun j hij hj => ?_⟩
    · rw [hlive pos hpos, hrun.live_iff_not_dvd hstart hentry hpos, and_assoc]
      refine and_congr_right fun _ => ⟨fun ⟨hfirst, hrest⟩ j p' hij hj hp' => ?_, fun hall => ⟨?_, fun j p' hij hj => ?_⟩⟩
      · rcases Nat.eq_or_lt_of_le hij with rfl | hlt
        · obtain rfl : p = p' := Option.some.inj (hp.symm.trans hp')
          exact hfirst
        · exact hrest j p' hlt (by omega) hp'
      · exact hall i p le_rfl (by omega) hp
      · exact hall j p' (by omega) (by omega)
    · rcases Nat.eq_or_lt_of_le hij with rfl | hlt
      · obtain ⟨e', hread, hafter⟩ := hrun.tracks_next hentry
        exact ⟨e', p, by rw [chain_wheel_other hchain (by omega), hread], hp, hafter⟩
      · exact hnext j hlt (by omega)

end

/-! ### The effect of PRESIEVE -/

/-- R101: what PRESIEVE leaves unchanged, and the flags and START it sets. -/
theorem presieved_eq {s u : State} {low high : Word64} {i n : Nat}
    (h : CrossChain i n (s.openSegment low.toNat high.toNat) u) :
    u = { s with
      sieveValid := true, primed := true, cntValid := false, start := low, size := u.size,
      bytes := u.bytes, wheel := u.wheel, wcnt := u.wcnt } := by
  have hframe := chain_frame h
  have hsize : u.size = (s.openSegment low.toNat high.toNat).size := by rw [hframe]
  have hlow : BitVec.ofNat 64 low.toNat = low := by simp
  conv_lhs => rw [hframe]
  rw [hsize]
  simp [State.openSegment, State.flagsOfPresieve, hlow]

/-- Settles O28: the opened segment, and a chain that only kills bits and writes the entries `4 .. c`. -/
theorem presieveOpensTheSegment : Obligations.PresieveOpensTheSegment := by
  intro c low high s hs hf hc h
  obtain ⟨u, hchain, hexec⟩ := presieve_completes hs hf hc h
  obtain ⟨hsize, hle⟩ := presievable_size hs hc h
  have hframe := chain_frame hchain
  have husize : u.size.toNat = presieveSize (high.toNat - low.toNat) := by rw [hframe]; exact hsize
  have hu : u.Inv := hchain.inv (openSegment_inv hs hc h) hc
  have hvalid : u.sieveValid = true := by rw [hframe]; rfl
  have hpresent (a : Nat) : (Store.read u.bytes a).isSome = true ↔ a < u.size.toNat := by
    rw [read_isSome_iff, hu.bytes_present, if_pos hvalid, List.mem_range]
  have hcount : u.wheelCount = if c.toNat < 4 then s.wheelCount else max s.wheelCount (c.toNat + 1) := by
    have hopen : (s.openSegment low.toNat high.toNat).wheelCount = s.wheelCount := rfl
    rw [chain_wheelCount hchain, hopen]
    split <;> split <;> omega
  have hother (i : Nat) (hi : i < 4 ∨ c.toNat < i) : Store.read u.wheel i = Store.read s.wheel i :=
    chain_wheel_other hchain (by omega)
  refine ⟨u.respond 0, hexec, husize, hcount, hpresent, fun pos hpos => ?_, hother, ?_⟩
  · have hbyte := (hpresent (pos / 8)).mp (isSome_of_live hpos)
    have hopen := chain_bits_only_die hchain pos hpos
    rw [live_openSegment hle (by omega), decide_eq_true_eq] at hopen
    omega
  · conv_lhs => rw [presieved_eq hchain]
    rfl

/-- Settles O29: with an empty chain the opened segment is what PRESIEVE leaves, whatever `c` is. -/
theorem presieveBelowFourCrossesNothing : Obligations.PresieveBelowFourCrossesNothing := by
  intro c low high s hs hf hc hlt h
  obtain ⟨hsize, hle⟩ := presievable_size hs hc h
  have hzero : (0 : Word64).toNat = 0 := rfl
  refine ⟨_, presieve_completes_of_lt hs hf hc h hlt, fun pos hpos => ?_, rfl, rfl,
    presieve_completes_of_lt hs hf hc (presievable_of_presievable h (by omega)) (by omega)⟩
  rw [State.respond_size, hsize] at hpos
  obtain ⟨-, hlh, -⟩ := h
  rw [State.respond_bytes, live_openSegment hle hpos, State.integerAt, State.respond_start,
    openSegment_start_toNat low.isLt, decide_eq_true_eq]
  simp only [List.not_mem_nil, false_implies, implies_true, and_true]
  omega

/-- The table primes that PRESIEVE `c` crosses. -/
theorem mem_tablePrimes_iff {l : List Nat} {c p : Nat} :
    p ∈ (l.take (c + 1)).drop 4 ↔ ∃ j, 4 ≤ j ∧ j < c + 1 ∧ l[j]? = some p := by
  rw [List.mem_iff_getElem?]
  simp only [List.getElem?_drop, List.getElem?_take]
  constructor
  · rintro ⟨k, hk⟩
    split at hk
    · next hlt => exact ⟨4 + k, by omega, hlt, hk⟩
    · cases hk
  · rintro ⟨j, h4, hj, hp⟩
    exact ⟨j - 4, by rw [if_pos (by omega), Nat.add_sub_cancel' h4, hp]⟩

/-- Settles O30: every live bit of the opened segment is one of `[low, high)`, and the chain kills the multiples. -/
theorem presieveSievesExactly : Obligations.PresieveSievesExactly := by
  intro c low high s hs hf hc h4 h htracks
  obtain ⟨u, hchain, hexec⟩ := presieve_completes hs hf hc h
  obtain ⟨hsize, hle⟩ := presievable_size hs hc h
  obtain ⟨hmod, hlh, -⟩ := h
  have hframe := chain_frame hchain
  have hstart : (s.openSegment low.toNat high.toNat).start.toNat = low.toNat := openSegment_start_toNat low.isLt
  have hustart : u.start = (s.openSegment low.toNat high.toNat).start := by rw [hframe]
  have husize : u.size = (s.openSegment low.toNat high.toNat).size := by rw [hframe]
  obtain ⟨hlive, hnext⟩ := chain_sieves hchain (by rw [hstart]; exact hmod) fun j e hj4 hj he => by
    rw [hstart]
    exact htracks j e hj4 (by omega) he
  refine ⟨_, hexec, fun pos hpos => ?_, ?_, fun j hj4 hj => ?_⟩
  · rw [State.respond_size, husize] at hpos
    rw [State.respond_bytes, hlive pos hpos, live_openSegment hle (hsize ▸ hpos), State.integerAt, State.integerAt,
      State.respond_start, hustart, hstart, decide_eq_true_eq]
    refine and_congr (by omega) ?_
    simp only [mem_tablePrimes_iff]
    constructor
    · rintro hall p ⟨j, hj4, hj, hp⟩
      exact hall j p hj4 (by omega) hp
    · intro hall j p hj4 hj hp
      exact hall p ⟨j, hj4, by omega, hp⟩
  · have hcount : (u.respond 0).wheelCount = u.wheelCount := rfl
    have hopen : (s.openSegment low.toNat high.toNat).wheelCount = s.wheelCount := rfl
    rw [hcount, chain_wheelCount hchain, hopen, if_neg (by omega), show 4 + (c.toNat + 1 - 4) = c.toNat + 1 by omega]
  · obtain ⟨e, p, hread, hp, hafter⟩ := hnext j hj4 (by omega)
    rw [hstart, ← husize] at hafter
    exact ⟨e, p, hread, hp, hafter⟩

/-- No represented integer is a multiple of 2, 3 or 5, the first three primes. -/
theorem not_dvd_of_coprime_thirty {n k : Nat} (h : Nat.Coprime n 30) (hk : k < 3) : ¬ Nat.nth Nat.Prime k ∣ n := by
  have hnth : Nat.nth Nat.Prime 0 = 2 ∧ Nat.nth Nat.Prime 1 = 3 ∧ Nat.nth Nat.Prime 2 = 5 := by
    refine ⟨Nat.nth_count (p := Nat.Prime) (n := 2) (by norm_num), ?_, ?_⟩
    · exact Nat.nth_count (p := Nat.Prime) (n := 3) (by norm_num)
    · exact Nat.nth_count (p := Nat.Prime) (n := 5) (by norm_num)
  have hthirty : Nat.nth Nat.Prime k ∣ 30 := by
    obtain ⟨h0, h1, h2⟩ := hnth
    interval_cases k
    · rw [h0]; decide
    · rw [h1]; decide
    · rw [h2]; decide
  intro hdvd
  have hprime := Nat.prime_nth_prime k
  have hone := Nat.dvd_gcd hdvd hthirty
  rw [h] at hone
  exact hprime.one_lt.ne' (Nat.dvd_one.mp hone)

/-- Settles O31: the table gives the primes from the fourth on; the first three divide no represented integer. -/
theorem presieveLeavesIntegersCoprimeToFirstPrimes : Obligations.PresieveLeavesIntegersCoprimeToFirstPrimes := by
  intro c low high s hs hf hc hcontract h4 h htracks
  obtain ⟨t, hexec, hsieved, -⟩ := presieveSievesExactly c low high s hs hf hc h4 h htracks
  obtain ⟨t', hexec', -, -, -, -, -, ht'⟩ := presieveOpensTheSegment c low high s hs hf hc h
  obtain rfl : t = t' := Host.Outcome.next.inj (hexec.symm.trans hexec')
  have hstart : t.start = low := by rw [ht']
  obtain ⟨hmod, -, -, -, -, hindex, -⟩ := h
  obtain ⟨hlen, -⟩ := hindex h4
  refine ⟨t, hexec, fun pos hpos => ?_⟩
  rw [hsieved pos hpos]
  have hcop := coprime_integerAt (s := t) (by rw [hstart]; exact hmod) pos
  rw [State.integerAt, hstart] at hcop ⊢
  refine and_congr_right fun _ => ?_
  simp only [mem_tablePrimes_iff]
  constructor
  · intro hall k hk
    rcases Nat.lt_or_ge k 3 with hk3 | hk3
    · exact not_dvd_of_coprime_thirty hcop hk3
    · exact hall _ ⟨k + 1, by omega, by omega, (hcontract (k + 1) (by omega) (by omega)).1⟩
  · rintro hall p ⟨j, hj4, hj, hp⟩
    obtain rfl := Option.some.inj (hp.symm.trans (hcontract j hj4 (by omega)).1)
    exact hall (j - 1) (by omega)

/-! ### The cross-offs as commands -/

section
variable {s s' t u : State} {i n : Nat}

/-- The states differ at most in the responses given and their number. -/
def SameButAnswers (s s' : State) : Prop := s' = { s with responses := s'.responses, cidx := s'.cidx }

/-- A body neither reads nor writes responses. -/
theorem crossBody_with_answers (s : State) (r : List ResponseWord) (k i p : Nat) (counted : Bool) :
    ({ s with responses := r, cidx := k } : State).crossBody i p counted =
      (s.crossBody i p counted).map fun x => ({ x.1 with responses := r, cidx := k }, x.2) := by
  have hcount : ({ s with responses := r, cidx := k } : State).wheelCount = s.wheelCount := rfl
  rw [State.crossBody, State.crossBody, hcount]
  by_cases hnew : i = s.wheelCount
  · have hread : Store.read (({ s with responses := r, cidx := k } : State).addWheel p).wheel i =
        Store.read (s.addWheel p).wheel i := rfl
    simp only [if_pos hnew, hread]
    cases Store.read (s.addWheel p).wheel i <;> rfl
  · simp only [if_neg hnew]
    cases Store.read s.wheel i <;> rfl

theorem crossBody_sameButAnswers {p v : Nat} {counted : Bool} (h : SameButAnswers s s')
    (hbody : s.crossBody i p counted = some (u, v)) :
    s'.crossBody i p counted = some ({ u with responses := s'.responses, cidx := s'.cidx }, v) := by
  conv_lhs => rw [h]
  rw [crossBody_with_answers, hbody, Option.map_some]

theorem SameButAnswers.respond (h : SameButAnswers s s') (v : Nat) : SameButAnswers s (s'.respond v) := by
  unfold SameButAnswers at h ⊢
  conv_lhs => rw [h]
  rfl

/-- R101 step 7 against R131: the commands do what the chain does, and answer. -/
theorem crossoffEach_of_chain (h : CrossChain i n s t) (hsame : SameButAnswers s s') (hs : s'.Inv) (hf : s.fault = false)
    (hv : s.sieveValid = true) (hcnt : s.cntValid = false) :
    ∃ t', State.crossoffEach (List.range' i n) s' = some t' ∧ SameButAnswers t t' := by
  induction h generalizing s' with
  | nil => exact ⟨s', rfl, hsame⟩
  | @cons i n p v s u t hp hx hbody hchain ih =>
    have hframe := crossBody_frame hbody
    have hbody' := crossBody_sameButAnswers hsame hbody
    have hf' : s'.fault = false := by rw [hsame]; exact hf
    have hv' : s'.sieveValid = true := by rw [hsame]; exact hv
    have hcfg : s'.cfg = s.cfg := by rw [hsame]
    have hx' : s'.crossable i p := by rw [hsame]; exact hx
    have ⟨_, _, hcap, _, hmax, _⟩ := hx'
    have hi : (BitVec.ofNat 64 i).toNat = i := by
      have := entryNumber_le s'.wcap
      rw [BitVec.toNat_ofNat, Nat.mod_eq_of_lt (by rw [State.wheelCapacity] at hcap; omega)]
    have hpw : (BitVec.ofNat 64 p).toNat = p := by rw [BitVec.toNat_ofNat, Nat.mod_eq_of_lt (by omega)]
    obtain ⟨u', v', hbody'', hexec⟩ := crossoff_completes (i := BitVec.ofNat 64 i) (p := BitVec.ofNat 64 p) hs hf' hv'
      (by rw [hi, hpw]; exact hx')
    rw [hi, hpw, hbody'] at hbody''
    obtain ⟨rfl, rfl⟩ := Prod.mk.inj (Option.some.inj hbody'')
    have hu : SameButAnswers u (({ u with responses := s'.responses, cidx := s'.cidx } : State).invalidateCounters) := by
      have huvalid : u.cntValid = false := by rw [hframe]; exact hcnt
      simp [SameButAnswers, State.invalidateCounters, huvalid]
    have huf : u.fault = false := by rw [hframe]; exact hf
    obtain ⟨t', hrest, ht'⟩ := ih (hu.respond v) (Invariant.exec_inv hs hexec) huf
      (by rw [hframe]; exact hv) (by rw [hframe]; exact hcnt)
    refine ⟨t', ?_, ht'⟩
    rw [List.range'_succ]
    simp only [State.crossoffEach, hcfg, hp, hexec]
    rw [if_neg (by simp [huf])]
    exact hrest

end

/-- Settles O60: PRESIEVE's chain, run as commands from the opened segment that PRESIEVE 3 leaves. -/
theorem presieveIsPresieveThreeThenCrossoffs : Obligations.PresieveIsPresieveThreeThenCrossoffs := by
  intro c low high s hs hf hc h
  obtain ⟨t, hchain, hexec⟩ := presieve_completes hs hf hc h
  have hthree : (3 : Word64).toNat = 3 := rfl
  have hexec3 := presieve_completes_of_lt (c := 3) hs hf hc (presievable_of_presievable h (by omega)) (by omega)
  have hopen : SameButAnswers (s.openSegment low.toNat high.toNat) ((s.openSegment low.toNat high.toNat).respond 0) := rfl
  obtain ⟨v, heach, hv⟩ := crossoffEach_of_chain hchain hopen (Invariant.exec_inv hs hexec3) hf rfl rfl
  have hresponses : t.responses = s.responses := by rw [chain_frame hchain]; rfl
  have hcidx : t.cidx = s.cidx := by rw [chain_frame hchain]; rfl
  refine ⟨_, _, v, hexec, hexec3, hf, heach, ?_⟩
  rw [hv, State.respond, State.answer, hresponses, hcidx]
  rfl

end Sys2Proof.Presieve
end
